-- ==== Sys2Proof/Word.lean ====
section
/-! DEFINITION. The word types of CHIP8-CORE (spec 00_scope.md R8, R9; 10_state.md R18, R21, R23). -/

namespace Sys2Proof

/-- A memory byte, a general register, a timer: 8 bits, unsigned (R18, R26, R27, R41). -/
abbrev Byte := BitVec 8

/-- `PC`, `I`, a stack entry, an instruction word: 16 bits, unsigned (R21, R23, R24, R61). -/
abbrev Word := BitVec 16

/-- The `NNN` operand: a 12-bit address (R62, R63). -/
abbrev Addr12 := BitVec 12

/-- A register index, 0 to 15; every value names a register (R10, R63). -/
abbrev RegIdx := Fin 16

/-- The index of `VF`, register 15 (R10, R19). -/
def vf : RegIdx := 15

end Sys2Proof
end

