-- ==== Sys2Proof/Config.lean ====
section
/-! DEFINITION. The parameters of spec 00_scope.md R8: the fixed ones are numbers, the OPEN ones and those
with a default are the fields of `Config`; the free values have no body. -/

namespace Sys2Proof

/-- `MEM_SIZE`: the memory array has 4096 bytes (R8, R41). -/
def memSize : Nat := 4096

/-- `PROG_BASE`: where a ROM is loaded and the first fetch is made (R8, R146). -/
def progBase : Nat := 0x200

/-- `ROM_MAX` = 4096 - 0x200 (R8, R141). -/
def romMax : Nat := 3584

/-- `STACK_DEPTH`: a fixed decision of the spec (R8, R24, U4). -/
def stackDepth : Nat := 16

/-- An RGBA8 colour, bytes in the order R, G, B, A (R8, R128). -/
structure Rgba where
  r : Byte
  g : Byte
  b : Byte
  a : Byte
  deriving DecidableEq, Repr

/-- The parameters of R8 that are OPEN or have a default: configuration fixed for a run (10_state.md R40).
DESIGN CHOICE (log 1, safe): the record stands in `State`, where no step and no port changes it, so that a
statement about every state is a statement about every configuration. -/
structure Config where
  /-- `FONT`: 80 bytes at 0x000 (R37). -/
  font : Vector Byte 80
  /-- `CYCLE_UNIT`: OPEN (R122). -/
  cycleUnit : Nat
  /-- `TICK_PERIOD`: OPEN (R122). -/
  tickPeriod : Nat
  /-- `QUIRK_SHIFT_VY` (R92, R94). -/
  quirkShiftVy : Bool
  /-- `QUIRK_LOGIC_VF_RESET` (R87, R88, R89). -/
  quirkLogicVfReset : Bool
  /-- `QUIRK_MEM_INCREMENT_I` (R110, R111). -/
  quirkMemIncrementI : Bool
  /-- `ON_COLOR`: OPEN (R128). -/
  onColor : Rgba
  /-- `OFF_COLOR`: OPEN (R128). -/
  offColor : Rgba
  deriving DecidableEq, Repr

/-- The configurations R122 admits: both timer parameters positive, `CYCLE_UNIT ≤ TICK_PERIOD`. -/
abbrev Config.Valid (c : Config) : Prop := 0 < c.cycleUnit ∧ c.cycleUnit ≤ c.tickPeriod

/-- Glyphs 0 to 7 of the default `FONT` (R37). -/
def fontLow : List Byte :=
  [0xF0, 0x90, 0x90, 0x90, 0xF0, 0x20, 0x60, 0x20, 0x20, 0x70] ++
  [0xF0, 0x10, 0xF0, 0x80, 0xF0, 0xF0, 0x10, 0xF0, 0x10, 0xF0] ++
  [0x90, 0x90, 0xF0, 0x10, 0x10, 0xF0, 0x80, 0xF0, 0x10, 0xF0] ++
  [0xF0, 0x80, 0xF0, 0x90, 0xF0, 0xF0, 0x10, 0x20, 0x40, 0x40]

/-- Glyphs 8 to F of the default `FONT` (R37). -/
def fontHigh : List Byte :=
  [0xF0, 0x90, 0xF0, 0x90, 0xF0, 0xF0, 0x90, 0xF0, 0x10, 0xF0] ++
  [0xF0, 0x90, 0xF0, 0x90, 0x90, 0xE0, 0x90, 0xE0, 0x90, 0xE0] ++
  [0xF0, 0x80, 0x80, 0x80, 0xF0, 0xE0, 0x90, 0x90, 0x90, 0xE0] ++
  [0xF0, 0x80, 0xF0, 0x80, 0xF0, 0xF0, 0x80, 0xF0, 0x80, 0x80]

/-- The default `FONT`, R37's table (the spec marks its bytes as general knowledge; log 8, unsafe). -/
def defaultFont : Vector Byte 80 := ⟨(fontLow ++ fontHigh).toArray, by decide⟩

/-- `CYCLE_UNIT - 1` of the machine at reset: OPEN, so it has no body (log 2, safe). -/
opaque Config.openCycleUnitPred : Nat

/-- `TICK_PERIOD - CYCLE_UNIT` of the machine at reset: OPEN, so it has no body (log 2, safe). -/
opaque Config.openPeriodSlack : Nat

/-- `ON_COLOR` at reset, channel by channel: OPEN, no body (log 3, safe). -/
opaque Config.openOnChannel : Fin 4 → Byte

/-- `OFF_COLOR` at reset, channel by channel: OPEN, no body (log 3, safe). -/
opaque Config.openOffChannel : Fin 4 → Byte

/-- The draws of `RandomByte()`: the environment's choice at each position of its sequence, under no law (R15,
R95, D28).  A FREE VALUE: no body, so nothing can be proved of any draw (log 4, safe). -/
opaque Config.randomByte : Nat → Byte

/-- The configuration of `State.reset`: R8's defaults, and the OPEN parameters left open.  Every pair with
`0 < CYCLE_UNIT ≤ TICK_PERIOD` has the form given here, and no other pair has. -/
def Config.initial : Config where
  font := defaultFont
  cycleUnit := Config.openCycleUnitPred + 1
  tickPeriod := Config.openCycleUnitPred + 1 + Config.openPeriodSlack
  quirkShiftVy := false
  quirkLogicVfReset := false
  quirkMemIncrementI := false
  onColor := ⟨Config.openOnChannel 0, Config.openOnChannel 1, Config.openOnChannel 2, Config.openOnChannel 3⟩
  offColor := ⟨Config.openOffChannel 0, Config.openOffChannel 1, Config.openOffChannel 2, Config.openOffChannel 3⟩

end Sys2Proof
end

