-- ==== Sys2Proof/Syntax.lean ====
section
/-! DEFINITION. The instructions: one constructor per row of spec/opcode_table.json (30_encoding.md R65), in
the table's order, operands as R62 and R63 give them. -/

namespace Sys2Proof

/-- The 34 instructions of R65.  `x`, `y` are the fields X and Y, `kk` is KK, `nnn` is NNN, `n` is N. -/
inductive Instr where
  /-- 00E0 `CLS` (R97). -/
  | cls
  /-- 00EE `RET` (R75). -/
  | ret
  /-- 1NNN `JP addr` (R76). -/
  | jp (nnn : Addr12)
  /-- 2NNN `CALL addr` (R77). -/
  | call (nnn : Addr12)
  /-- 3XKK `SE Vx, byte` (R78). -/
  | seByte (x : RegIdx) (kk : Byte)
  /-- 4XKK `SNE Vx, byte` (R79). -/
  | sneByte (x : RegIdx) (kk : Byte)
  /-- 5XY0 `SE Vx, Vy` (R80). -/
  | seReg (x y : RegIdx)
  /-- 6XKK `LD Vx, byte` (R84). -/
  | ldByte (x : RegIdx) (kk : Byte)
  /-- 7XKK `ADD Vx, byte` (R85). -/
  | addByte (x : RegIdx) (kk : Byte)
  /-- 8XY0 `LD Vx, Vy` (R86). -/
  | ldReg (x y : RegIdx)
  /-- 8XY1 `OR Vx, Vy` (R87). -/
  | orReg (x y : RegIdx)
  /-- 8XY2 `AND Vx, Vy` (R88). -/
  | andReg (x y : RegIdx)
  /-- 8XY3 `XOR Vx, Vy` (R89). -/
  | xorReg (x y : RegIdx)
  /-- 8XY4 `ADD Vx, Vy` (R90). -/
  | addReg (x y : RegIdx)
  /-- 8XY5 `SUB Vx, Vy` (R91). -/
  | subReg (x y : RegIdx)
  /-- 8XY6 `SHR Vx, Vy` with Vy optional in the syntax, Y = 0 when it is omitted (R92, R72). -/
  | shr (x y : RegIdx)
  /-- 8XY7 `SUBN Vx, Vy` (R93). -/
  | subn (x y : RegIdx)
  /-- 8XYE `SHL Vx, Vy` with Vy optional in the syntax, Y = 0 when it is omitted (R94, R72). -/
  | shl (x y : RegIdx)
  /-- 9XY0 `SNE Vx, Vy` (R81). -/
  | sneReg (x y : RegIdx)
  /-- ANNN `LD I, addr` (R106). -/
  | ldI (nnn : Addr12)
  /-- BNNN `JP V0, addr` (R82). -/
  | jpV0 (nnn : Addr12)
  /-- CXKK `RND Vx, byte` (R95). -/
  | rnd (x : RegIdx) (kk : Byte)
  /-- DXYN `DRW Vx, Vy, nibble` (R98); `n` is a count of rows, 0 to 15 when well-formed. -/
  | drw (x y : RegIdx) (n : Nat)
  /-- EX9E `SKP Vx` (R100). -/
  | skp (x : RegIdx)
  /-- EXA1 `SKNP Vx` (R101). -/
  | sknp (x : RegIdx)
  /-- FX07 `LD Vx, DT` (R103). -/
  | ldVxDt (x : RegIdx)
  /-- FX0A `LD Vx, K` (R102). -/
  | ldVxK (x : RegIdx)
  /-- FX15 `LD DT, Vx` (R104). -/
  | ldDtVx (x : RegIdx)
  /-- FX18 `LD ST, Vx` (R105). -/
  | ldStVx (x : RegIdx)
  /-- FX1E `ADD I, Vx` (R107). -/
  | addI (x : RegIdx)
  /-- FX29 `LD F, Vx` (R108). -/
  | ldF (x : RegIdx)
  /-- FX33 `LD B, Vx` (R109). -/
  | ldB (x : RegIdx)
  /-- FX55 `LD [I], Vx` (R110). -/
  | ldMemVx (x : RegIdx)
  /-- FX65 `LD Vx, [I]` (R111). -/
  | ldVxMem (x : RegIdx)
  deriving DecidableEq, Repr

end Sys2Proof
end

