-- ==== Sys2Proof/WellFormed.lean ====
section
/-! DEFINITION. Which instruction terms are well-formed: those whose operands fit the fields of spec
30_encoding.md R62 and R63. -/

namespace Sys2Proof

/-- R63: `N` is an unsigned 4-bit count, 0 to 15. -/
def rowCountFits (n : Nat) : Bool := n ≤ 15

/-- An instruction is well-formed when every operand fits its field.  X, Y, KK and NNN fit by their types (R63:
no register field is ever illegal); the row count of DXYN is a number and is checked. -/
def Instr.wellFormed : Instr → Bool
  | .cls | .ret | .jp _ | .call _ | .seByte _ _ | .sneByte _ _ | .seReg _ _ | .ldByte _ _ | .addByte _ _ => true
  | .ldReg _ _ | .orReg _ _ | .andReg _ _ | .xorReg _ _ | .addReg _ _ | .subReg _ _ => true
  | .shr _ _ | .subn _ _ | .shl _ _ | .sneReg _ _ | .ldI _ | .jpV0 _ | .rnd _ _ => true
  | .drw _ _ n => rowCountFits n
  | .skp _ | .sknp _ | .ldVxDt _ | .ldVxK _ | .ldDtVx _ | .ldStVx _ | .addI _ | .ldF _ => true
  | .ldB _ | .ldMemVx _ | .ldVxMem _ => true

end Sys2Proof
end

