-- ==== Sys2Proof/Decode.lean ====
section
/-! DEFINITION. The decoder and the encoder of spec 30_encoding.md: fields (R62), templates (R64), the opcode
map (R65), first match in table order (R66), illegal words (R67 to R69), encoding from syntax (R74). -/

namespace Sys2Proof

/-! ## Fields (R62) -/

/-- `X` = op[11:8]. -/
def fieldX (op : Word) : RegIdx := ⟨(op.extractLsb' 8 4).toNat, (op.extractLsb' 8 4).isLt⟩

/-- `Y` = op[7:4]. -/
def fieldY (op : Word) : RegIdx := ⟨(op.extractLsb' 4 4).toNat, (op.extractLsb' 4 4).isLt⟩

/-- `KK` = op[7:0]. -/
def fieldKK (op : Word) : Byte := op.extractLsb' 0 8

/-- `NNN` = op[11:0]. -/
def fieldNNN (op : Word) : Addr12 := op.extractLsb' 0 12

/-- `N` = op[3:0], a count (R63). -/
def fieldN (op : Word) : Nat := (op.extractLsb' 0 4).toNat

/-! ## Templates (R64) and the opcode map (R65) -/

/-- One line of R65: the mask of the literal nibbles, their value, and the instruction built from the fields. -/
structure OpcodeRow where
  mask : Word
  pattern : Word
  build : Word → Instr

/-- R64: `op` matches iff `op AND mask = match`. -/
def OpcodeRow.matches (row : OpcodeRow) (op : Word) : Bool := op &&& row.mask == row.pattern

/-- R65 rows 1 to 9. -/
def opcodeRowsLow : List OpcodeRow :=
  [ ⟨0xFFFF, 0x00E0, fun _ => .cls⟩,
    ⟨0xFFFF, 0x00EE, fun _ => .ret⟩,
    ⟨0xF000, 0x1000, fun op => .jp (fieldNNN op)⟩,
    ⟨0xF000, 0x2000, fun op => .call (fieldNNN op)⟩,
    ⟨0xF000, 0x3000, fun op => .seByte (fieldX op) (fieldKK op)⟩,
    ⟨0xF000, 0x4000, fun op => .sneByte (fieldX op) (fieldKK op)⟩,
    ⟨0xF00F, 0x5000, fun op => .seReg (fieldX op) (fieldY op)⟩,
    ⟨0xF000, 0x6000, fun op => .ldByte (fieldX op) (fieldKK op)⟩,
    ⟨0xF000, 0x7000, fun op => .addByte (fieldX op) (fieldKK op)⟩ ]

/-- R65 rows 10 to 18, the register-register operations. -/
def opcodeRowsAlu : List OpcodeRow :=
  [ ⟨0xF00F, 0x8000, fun op => .ldReg (fieldX op) (fieldY op)⟩,
    ⟨0xF00F, 0x8001, fun op => .orReg (fieldX op) (fieldY op)⟩,
    ⟨0xF00F, 0x8002, fun op => .andReg (fieldX op) (fieldY op)⟩,
    ⟨0xF00F, 0x8003, fun op => .xorReg (fieldX op) (fieldY op)⟩,
    ⟨0xF00F, 0x8004, fun op => .addReg (fieldX op) (fieldY op)⟩,
    ⟨0xF00F, 0x8005, fun op => .subReg (fieldX op) (fieldY op)⟩,
    ⟨0xF00F, 0x8006, fun op => .shr (fieldX op) (fieldY op)⟩,
    ⟨0xF00F, 0x8007, fun op => .subn (fieldX op) (fieldY op)⟩,
    ⟨0xF00F, 0x800E, fun op => .shl (fieldX op) (fieldY op)⟩ ]

/-- R65 rows 19 to 25. -/
def opcodeRowsMid : List OpcodeRow :=
  [ ⟨0xF00F, 0x9000, fun op => .sneReg (fieldX op) (fieldY op)⟩,
    ⟨0xF000, 0xA000, fun op => .ldI (fieldNNN op)⟩,
    ⟨0xF000, 0xB000, fun op => .jpV0 (fieldNNN op)⟩,
    ⟨0xF000, 0xC000, fun op => .rnd (fieldX op) (fieldKK op)⟩,
    ⟨0xF000, 0xD000, fun op => .drw (fieldX op) (fieldY op) (fieldN op)⟩,
    ⟨0xF0FF, 0xE09E, fun op => .skp (fieldX op)⟩,
    ⟨0xF0FF, 0xE0A1, fun op => .sknp (fieldX op)⟩ ]

/-- R65 rows 26 to 34, the FXnn group. -/
def opcodeRowsHigh : List OpcodeRow :=
  [ ⟨0xF0FF, 0xF007, fun op => .ldVxDt (fieldX op)⟩,
    ⟨0xF0FF, 0xF00A, fun op => .ldVxK (fieldX op)⟩,
    ⟨0xF0FF, 0xF015, fun op => .ldDtVx (fieldX op)⟩,
    ⟨0xF0FF, 0xF018, fun op => .ldStVx (fieldX op)⟩,
    ⟨0xF0FF, 0xF01E, fun op => .addI (fieldX op)⟩,
    ⟨0xF0FF, 0xF029, fun op => .ldF (fieldX op)⟩,
    ⟨0xF0FF, 0xF033, fun op => .ldB (fieldX op)⟩,
    ⟨0xF0FF, 0xF055, fun op => .ldMemVx (fieldX op)⟩,
    ⟨0xF0FF, 0xF065, fun op => .ldVxMem (fieldX op)⟩ ]

/-- The opcode map of R65, in its row order, which is the priority order of R66. -/
def opcodeTable : List OpcodeRow := opcodeRowsLow ++ opcodeRowsAlu ++ opcodeRowsMid ++ opcodeRowsHigh

/-! ## Decoding (R66, R67) -/

/-- Why a word is no instruction. -/
inductive DecodeError where
  /-- R67: the word matches no template. -/
  | unknownOpcode (op : Word)
  deriving DecidableEq, Repr

/-- `Decode(op)` of R66: the first row whose template matches; a word that matches none is `UnknownOpcode(op)`. -/
def decode (op : Word) : Except DecodeError Instr :=
  match opcodeTable.find? (fun row => row.matches op) with
  | some row => .ok (row.build op)
  | none => .error (.unknownOpcode op)

/-- A big-endian word from its two bytes, the one at the lower address first (R44, R52). -/
def wordOfBytes (hi lo : Byte) : Word := hi ++ lo

/-- The byte of a word that is stored at the lower address (R44). -/
def highByte (op : Word) : Byte := op.extractLsb' 8 8

/-- The byte of a word that is stored at the higher address (R44). -/
def lowByte (op : Word) : Byte := op.extractLsb' 0 8

/-- Why a byte sequence does not begin with an instruction. -/
inductive BytesError where
  /-- Fewer than the two bytes of R61. -/
  | tooShort
  /-- Two bytes that form an illegal word (R67). -/
  | illegal (e : DecodeError)
  deriving DecidableEq, Repr

/-- The instruction at the head of a byte sequence, and the bytes after it; total on any bytes (R61). -/
def decodeBytes : List Byte → Except BytesError (Instr × List Byte)
  | hi :: lo :: rest =>
    match decode (wordOfBytes hi lo) with
    | .ok i => .ok (i, rest)
    | .error e => .error (.illegal e)
  | _ => .error .tooShort

/-! ## Encoding (R74) -/

/-- A 4-bit literal or register field, from a number. -/
def nibble (n : Nat) : BitVec 4 := BitVec.ofNat 4 n

/-- The X-Y-N form: `(G << 12) | (X << 8) | (Y << 4) | N`. -/
def packXYN (g : Nat) (x y : RegIdx) (n : Nat) : Word := nibble g ++ nibble x ++ nibble y ++ nibble n

/-- The X-KK form: `(G << 12) | (X << 8) | KK`. -/
def packXKK (g : Nat) (x : RegIdx) (kk : Byte) : Word := nibble g ++ nibble x ++ kk

/-- The NNN form: `(G << 12) | NNN`. -/
def packNNN (g : Nat) (nnn : Addr12) : Word := nibble g ++ nnn

/-- The word of an instruction, with the literal nibbles of its template in R65. -/
def encode : Instr → Word
  | .cls => 0x00E0
  | .ret => 0x00EE
  | .jp nnn => packNNN 0x1 nnn
  | .call nnn => packNNN 0x2 nnn
  | .seByte x kk => packXKK 0x3 x kk
  | .sneByte x kk => packXKK 0x4 x kk
  | .seReg x y => packXYN 0x5 x y 0x0
  | .ldByte x kk => packXKK 0x6 x kk
  | .addByte x kk => packXKK 0x7 x kk
  | .ldReg x y => packXYN 0x8 x y 0x0
  | .orReg x y => packXYN 0x8 x y 0x1
  | .andReg x y => packXYN 0x8 x y 0x2
  | .xorReg x y => packXYN 0x8 x y 0x3
  | .addReg x y => packXYN 0x8 x y 0x4
  | .subReg x y => packXYN 0x8 x y 0x5
  | .shr x y => packXYN 0x8 x y 0x6
  | .subn x y => packXYN 0x8 x y 0x7
  | .shl x y => packXYN 0x8 x y 0xE
  | .sneReg x y => packXYN 0x9 x y 0x0
  | .ldI nnn => packNNN 0xA nnn
  | .jpV0 nnn => packNNN 0xB nnn
  | .rnd x kk => packXKK 0xC x kk
  | .drw x y n => packXYN 0xD x y n
  | .skp x => packXKK 0xE x 0x9E
  | .sknp x => packXKK 0xE x 0xA1
  | .ldVxDt x => packXKK 0xF x 0x07
  | .ldVxK x => packXKK 0xF x 0x0A
  | .ldDtVx x => packXKK 0xF x 0x15
  | .ldStVx x => packXKK 0xF x 0x18
  | .addI x => packXKK 0xF x 0x1E
  | .ldF x => packXKK 0xF x 0x29
  | .ldB x => packXKK 0xF x 0x33
  | .ldMemVx x => packXKK 0xF x 0x55
  | .ldVxMem x => packXKK 0xF x 0x65

/-! ## The table's numbering of bits -/

/-- The instruction word of a number whose bit 0 is the word's least significant bit, bits from `nbits` up being 0. -/
def tableWord (nbits w : Nat) : Word := BitVec.ofNat 16 (w % 2 ^ nbits)

/-- What the decoder reads from the instruction whose bits are `w`, laid out in memory as R44 stores a word. -/
def decodeTableWord (nbits w : Nat) : Option Instr :=
  match decodeBytes [highByte (tableWord nbits w), lowByte (tableWord nbits w)] with
  | .ok (i, _) => some i
  | .error _ => none

end Sys2Proof
end

