-- ==== Sys2Proof/Machine/State.lean ====
section
/-! DEFINITION. The architectural state of CHIP8-CORE (spec 10_state.md), the reasons a step can stop, and the
machine at reset. -/

namespace Sys2Proof.Machine

/-- Memory as (address, byte) pairs: the bytes that differ from what an unlisted address reads as
(`unlistedByte`), addresses strictly rising (20_memory.md R41; log 7). -/
abbrev Memory := List Host.Cell

/-- The display buffer: 32 rows of 64 cells, `DISP[y][x]`, `true` for on (R29). -/
abbrev Display := Vector (Vector Bool 64) 32

/-- The fault kinds of 60_exceptions.md R112, each with the datum the `info` column gives it. -/
inductive FaultKind where
  /-- Code 1: the fetch address (R52). -/
  | fetchFault (addr : Word)
  /-- Code 2: the opcode (R66, R67). -/
  | unknownOpcode (op : Word)
  /-- Code 3: CALL with a full stack (R25, R77). -/
  | stackOverflow
  /-- Code 4: RET with an empty stack (R25, R75). -/
  | stackUnderflow
  /-- Code 5: the lowest out-of-range address; an address is a natural number (R48, R50). -/
  | addressFault (addr : Nat)
  /-- Code 6: the lowest reserved address written (R49, R51). -/
  | reservedWriteFault (addr : Nat)
  /-- Code 7: the value of `V[X]` (R100, R101). -/
  | keyIndexFault (value : Byte)
  deriving DecidableEq, Repr

/-- A record of the fault register `FAULT`: the kind with its info, and the address the faulting instruction was
fetched from (R32, R113). -/
structure FaultRecord where
  kind : FaultKind
  pc : Word
  deriving DecidableEq, Repr

/-- The random-source mode (R35, R132). -/
inductive RngMode where
  | fresh
  | fixed
  deriving DecidableEq, Repr

/-- Everything the spec gives the machine (10_state.md), and two fields of the model's own: `drawIndex`, `cfg`. -/
structure State where
  /-- `V[0]`..`V[15]` (R18, R19). -/
  regs : Vector Byte 16
  /-- `I` (R23). -/
  i : Word
  /-- `PC` (R21, R22). -/
  pc : Word
  /-- The call stack, the most recent entry first; `SP` is its length (R24, R25). -/
  stack : List Word
  /-- `DT` (R26). -/
  dt : Byte
  /-- `ST` (R27). -/
  st : Byte
  /-- `ACC_D` (R28). -/
  accD : Nat
  /-- `ACC_S` (R28). -/
  accS : Nat
  /-- `MEM` (R41). -/
  mem : Memory
  /-- `DISP` (R29). -/
  disp : Display
  /-- `KEY[0]`..`KEY[15]`, `true` for pressed (R30). -/
  keys : Vector Bool 16
  /-- `RUNNABLE` (R31). -/
  runnable : Bool
  /-- `FAULT` (R32). -/
  fault : Option FaultRecord
  /-- `DEBUG_LEVEL` (R36). -/
  debugLevel : Nat
  /-- The random-source mode (R35). -/
  rngMode : RngMode
  /-- The model's own: how many draws the environment has given (R15; log 4). -/
  drawIndex : Nat
  /-- The model's own: the parameters of R8, fixed for a run (R40; log 1). -/
  cfg : Config
  deriving DecidableEq, Repr

/-- Reasons the step function stops with a fault: none.  Every fault of R112 is a state the spec describes (FAULT
latched, the core halted, R113 to R115), so it is a next state of the model (log 6, safe). -/
inductive Fault
  deriving DecidableEq, Repr

/-- Reasons the step function has no next state. -/
inductive Refusal where
  /-- Raised by `exec` for an instruction without a meaning; no arm of this model does (safe). -/
  | notModelled (mnemonic : String)
  deriving DecidableEq, Repr

/-- Every cell off (R38, R97). -/
def blankDisplay : Display := Vector.replicate 32 (Vector.replicate 64 false)

/-- The state of a newly constructed core with configuration `cfg`, before any load (R39, R138): R38's table with
an empty ROM, `RUNNABLE` = 0, `DEBUG_LEVEL` = 0, mode `fresh`. -/
def State.constructed (cfg : Config) : State where
  regs := Vector.replicate 16 0
  i := 0
  pc := 0x200
  stack := []
  dt := 0
  st := 0
  accD := 0
  accS := 0
  mem := []
  disp := blankDisplay
  keys := Vector.replicate 16 false
  runnable := false
  fault := none
  debugLevel := 0
  rngMode := .fresh
  drawIndex := 0
  cfg := cfg

/-- The machine right after reset: construction (R39, R138).  A program comes to run by the host's load
(`Ports.load`, R139; log 5). -/
def State.reset : State := State.constructed Config.initial

end Sys2Proof.Machine
end

