-- ==== Sys2Proof/Machine/Ops.lean ====
section
/-! DEFINITION. The named operations over memory, registers, stack, timers and the fault register that every
meaning is written in (spec 00_scope.md R10 to R15, 10_state.md R25, 20_memory.md R48 to R53, 60_exceptions.md
R113, R123). -/

namespace Sys2Proof.Machine

/-! ## Memory (20_memory.md) -/

/-- What an address that the memory list does not name reads as: the contents of R38 with an empty ROM, `FONT` at
0x000..0x04F and 0x00 elsewhere. -/
def unlistedByte (cfg : Config) (a : Nat) : Byte := if h : a < 80 then cfg.font[a] else 0

/-- The byte at `a`. -/
def Memory.read (cfg : Config) : Memory → Nat → Byte
  | [], a => unlistedByte cfg a
  | c :: cs, a => if c.1 = a then c.2 else Memory.read cfg cs a

/-- Memory with the byte at `a` replaced, in the canonical form `Memory.wf`. -/
def Memory.write (cfg : Config) : Memory → Nat → Byte → Memory
  | [], a, v => if v = unlistedByte cfg a then [] else [(a, v)]
  | c :: cs, a, v =>
    if c.1 < a then c :: Memory.write cfg cs a v
    else
      let rest := if c.1 = a then cs else c :: cs
      if v = unlistedByte cfg a then rest else (a, v) :: rest

/-- The canonical form: addresses strictly rising and inside the array, no entry equal to what an unlisted address
reads as.  Equal memories are then equal lists. -/
abbrev Memory.wf (cfg : Config) (m : Memory) : Prop :=
  m.Pairwise (fun p q => p.1 < q.1) ∧ ∀ c ∈ m, c.1 < memSize ∧ c.2 ≠ unlistedByte cfg c.1

/-- The canonical memory that holds `bytes` from `a` on and is unlisted elsewhere (the ROM copy of R139). -/
def Memory.ofBytes (cfg : Config) : Nat → List Byte → Memory
  | _, [] => []
  | a, b :: bs =>
    if b = unlistedByte cfg a then Memory.ofBytes cfg (a + 1) bs
    else (a, b) :: Memory.ofBytes cfg (a + 1) bs

/-- `MEM[a]` (R10). -/
def State.readByte (s : State) (a : Nat) : Byte := Memory.read s.cfg s.mem a

/-- `MEM[a] <- v`, unchecked (R10). -/
def State.writeByte (s : State) (a : Nat) (v : Byte) : State := { s with mem := Memory.write s.cfg s.mem a v }

/-- `MemRead(addr, 1)` (R50). -/
def memRead (a : Nat) (s : State) : Except FaultKind Byte :=
  if a > 0xFFF then .error (.addressFault a) else .ok (s.readByte a)

/-- `MemWrite(addr, 1, v)` (R51): the range check first, then the reserved region. -/
def memWrite (a : Nat) (v : Byte) (s : State) : Except FaultKind State :=
  if a > 0xFFF then .error (.addressFault a)
  else if a < 0x200 then .error (.reservedWriteFault a)
  else .ok (s.writeByte a v)

/-- The `n` bytes from `a` on, in ascending order; the fault of the lowest faulting address (R53). -/
def readBlock (a : Nat) : Nat → State → Except FaultKind (List Byte)
  | 0, _ => .ok []
  | n + 1, s =>
    match memRead a s with
    | .error k => .error k
    | .ok b =>
      match readBlock (a + 1) n s with
      | .error k => .error k
      | .ok bs => .ok (b :: bs)

/-- The bytes stored from `a` on, in ascending order; on a fault no state is given, so no byte is written (R53). -/
def writeBlock (a : Nat) : List Byte → State → Except FaultKind State
  | [], s => .ok s
  | b :: bs, s =>
    match memWrite a b s with
    | .error k => .error k
    | .ok t => writeBlock (a + 1) bs t

/-- `FetchWord(pc)` (R52): big-endian, no alignment (R44, R45). -/
def fetchWord (pc : Word) (s : State) : Except FaultKind Word :=
  if pc.toNat > 0xFFE then .error (.fetchFault pc)
  else .ok (wordOfBytes (s.readByte pc.toNat) (s.readByte (pc.toNat + 1)))

/-! ## Registers -/

/-- `V[x]` (R10): no register is hardwired (R18). -/
def State.reg (s : State) (x : RegIdx) : Byte := s.regs[x]

/-- `V[x] <- v` (R10). -/
def State.setReg (s : State) (x : RegIdx) (v : Byte) : State := { s with regs := s.regs.set x v }

/-- `V[k] <- bs[k]` for every `k` the list reaches (FX65, R111). -/
def State.loadRegs (s : State) (bs : List Byte) : State :=
  { s with regs := Vector.ofFn fun k : Fin 16 => (bs[k.val]?).getD s.regs[k] }

/-- `V[0]`..`V[x]` in order (FX55, R110). -/
def State.regsUpTo (s : State) (x : RegIdx) : List Byte := s.regs.toList.take (x.val + 1)

/-- `I <- v` (R10). -/
def State.setI (s : State) (v : Word) : State := { s with i := v }

/-- `pc <- v` (R10, R22). -/
def State.setPc (s : State) (v : Word) : State := { s with pc := v }

/-- The advance of the cycle and the skip: `pc <- trunc_16(PC + 2)` (R14, R70). -/
def State.advancePc (s : State) : State := s.setPc (s.pc + 2)

/-- `skip` when the condition holds (R14). -/
def State.skipIf (s : State) (cond : Bool) : State := if cond then s.advancePc else s

/-- `DT <- v` (R26). -/
def State.setDt (s : State) (v : Byte) : State := { s with dt := v }

/-- `ST <- v` (R27). -/
def State.setSt (s : State) (v : Byte) : State := { s with st := v }

/-- The display buffer replaced (R29). -/
def State.setDisp (s : State) (d : Display) : State := { s with disp := d }

/-! ## The call stack (R24, R25) -/

/-- `SP`, the number of entries. -/
def State.sp (s : State) : Nat := s.stack.length

/-- `STACK[k]`, the k-th entry from the bottom; an index at `SP` or above holds no value (R25). -/
def State.stackEntry (s : State) (k : Nat) : Option Word := s.stack.reverse[k]?

/-- `Push(v)` (R25). -/
def push (v : Word) (s : State) : Except FaultKind State :=
  if s.sp = stackDepth then .error .stackOverflow else .ok { s with stack := v :: s.stack }

/-- `Pop()` (R25): the popped value and the state without it. -/
def pop (s : State) : Except FaultKind (Word × State) :=
  match s.stack with
  | [] => .error .stackUnderflow
  | v :: rest => .ok (v, { s with stack := rest })

/-! ## The timers (R122, R123) -/

/-- One timer's part of `TimerTick()`: the accumulator and the counter after it (R123, strict "exceeds"). -/
def tickTimer (cfg : Config) (acc : Nat) (timer : Byte) : Nat × Byte :=
  if acc + cfg.cycleUnit > cfg.tickPeriod then
    (acc + cfg.cycleUnit - cfg.tickPeriod, if timer = 0 then 0 else timer - 1)
  else (acc + cfg.cycleUnit, timer)

/-- `TimerTick()` (R123). -/
def timerTick (s : State) : State :=
  { s with
    accD := (tickTimer s.cfg s.accD s.dt).1
    dt := (tickTimer s.cfg s.accD s.dt).2
    accS := (tickTimer s.cfg s.accS s.st).1
    st := (tickTimer s.cfg s.accS s.st).2 }

/-! ## The random draw (R15) -/

/-- `RandomByte()`: the environment's next draw, one per execution of CXKK. -/
def draw (s : State) : Byte × State := (Config.randomByte s.drawIndex, { s with drawIndex := s.drawIndex + 1 })

/-! ## Taking a fault (R12, R113) -/

/-- The cause code of R112. -/
def FaultKind.code : FaultKind → Nat
  | .fetchFault _ => 1
  | .unknownOpcode _ => 2
  | .stackOverflow => 3
  | .stackUnderflow => 4
  | .addressFault _ => 5
  | .reservedWriteFault _ => 6
  | .keyIndexFault _ => 7

/-- The `info` column of R112, as a number; `none` where the table says none. -/
def FaultKind.info : FaultKind → Option Nat
  | .fetchFault a => some a.toNat
  | .unknownOpcode op => some op.toNat
  | .stackOverflow => none
  | .stackUnderflow => none
  | .addressFault a => some a
  | .reservedWriteFault a => some a
  | .keyIndexFault v => some v.toNat

/-- A raise of kind `k` by the instruction fetched from `pc0`: `FAULT <- (kind, info, pc0)` and nothing else; the
core is halted from then on, since a cycle looks at `FAULT` first (R113, R114).  There is no handler, no mode and
no return (R119, R120). -/
def raise (k : FaultKind) (pc0 : Word) (s : State) : State := { s with fault := some ⟨k, pc0⟩ }

/-- `pc0` in the execute stage, where `PC` holds `trunc_16(pc0 + 2)` (R21, R70). -/
def State.pc0 (s : State) : Word := s.pc - 2

/-- The end of an instruction: its result, or the raise of its fault in the state it began in, so that a faulting
instruction makes none of its own writes (R12, R71, R115). -/
def complete (s : State) (r : Except FaultKind State) : Host.Outcome State Fault Refusal :=
  match r with
  | .ok t => .next t
  | .error k => .next (raise k s.pc0 s)

end Sys2Proof.Machine
end

