-- ==== Sys2Proof/Machine/Operands.lean ====
section
/-! DEFINITION. The operand forms: addresses from NNN, the indexed jump target, the shift source, the glyph
address, the decimal digits, the key an operand names, the sprite's origin (spec 30_encoding.md R63 and the
instruction rules). -/

namespace Sys2Proof.Machine

/-- `zext_16(NNN)` (R63). -/
def addrOperand (nnn : Addr12) : Word := nnn.setWidth 16

/-- `trunc_16(zext_16(NNN) + zext_16(V[0]))`: always V0, never VX (R82). -/
def indexedTarget (nnn : Addr12) (s : State) : Word := addrOperand nnn + (s.reg 0).setWidth 16

/-- The source of SHR and SHL: `V[Y]` under `QUIRK_SHIFT_VY`, else `V[X]` (R92, R94). -/
def shiftSource (x y : RegIdx) (s : State) : Byte := if s.cfg.quirkShiftVy then s.reg y else s.reg x

/-- `zext_16(V[X]) × 5`, the whole register value, `FONT_BASE` = 0 (R108). -/
def glyphAddr (v : Byte) : Word := v.setWidth 16 * 5

/-- Hundreds, tens and units of a byte (R109). -/
def bcdDigits (v : Byte) : List Byte := [v / 100, v / 10 % 10, v % 10]

/-- `I` as an address, a natural number (R50). -/
def State.base (s : State) : Nat := s.i.toNat

/-- `I <- trunc_16(I + X + 1)` under `QUIRK_MEM_INCREMENT_I`, else nothing (R110, R111). -/
def State.bumpI (s : State) (x : RegIdx) : State :=
  if s.cfg.quirkMemIncrementI then s.setI (BitVec.ofNat 16 (s.base + x.val + 1)) else s

/-- `KEY[k]` for the key index a register holds; above 15 it is no key (R100, R101). -/
def keyOperand (k : Byte) (s : State) : Except FaultKind Bool :=
  if h : k.toNat < 16 then .ok s.keys[k.toNat] else .error (.keyIndexFault k)

/-- `min { k | KEY[k] = 1 }`, or none when no key is pressed (R102). -/
def lowestPressed (s : State) : Option RegIdx := (List.finRange 16).find? fun k => s.keys[k]

/-- `V[X] mod 64`, the sprite's column (R98). -/
def originX (x : RegIdx) (s : State) : Nat := (s.reg x).toNat % 64

/-- `V[Y] mod 32`, the sprite's row (R98). -/
def originY (y : RegIdx) (s : State) : Nat := (s.reg y).toNat % 32

end Sys2Proof.Machine
end

