-- ==== Sys2Proof/Machine/Flags.lean ====
section
/-! DEFINITION. The flag computations.  The only flag is `VF` (spec 10_state.md R19, R33). -/

namespace Sys2Proof.Machine

/-- A condition as the flag value 1 or 0. -/
def flagByte (b : Bool) : Byte := if b then 1 else 0

/-- Carry out of bit 7 of `a + b` (R90). -/
def carryFlag (a b : Byte) : Byte := flagByte (a.toNat + b.toNat > 0xFF)

/-- Not-borrow of `a - b`: 1 when `a ≥ b`, the equal case included (R91, R93). -/
def notBorrowFlag (a b : Byte) : Byte := flagByte (a.toNat ≥ b.toNat)

/-- The bit a right shift moves out, bit 0 (R92). -/
def shiftedOutRight (src : Byte) : Byte := flagByte (src.getLsbD 0)

/-- The bit a left shift moves out, bit 7 (R94). -/
def shiftedOutLeft (src : Byte) : Byte := flagByte (src.getLsbD 7)

/-- A result and then the flag: the flag is written last, so it is what `VF` holds when X = 15 (R13, R19). -/
def State.setResultAndFlag (s : State) (x : RegIdx) (v flag : Byte) : State := (s.setReg x v).setReg vf flag

/-- `if QUIRK_LOGIC_VF_RESET then VF <- 0` (R87, R88, R89). -/
def State.logicFlag (s : State) : State := if s.cfg.quirkLogicVfReset then s.setReg vf 0 else s

end Sys2Proof.Machine
end

