-- ==== Sys2Proof/Machine/Alu.lean ====
section
/-! DEFINITION. The meanings of the register loads and arithmetic-logic instructions (spec 41_register_alu.md).
Operands are read before any write and the flag is written last (R13, R19). -/

namespace Sys2Proof.Machine

/-- 6XKK `LD Vx, byte` (R84). -/
def execLdByte (x : RegIdx) (kk : Byte) (s : State) : Host.Outcome State Fault Refusal := .next (s.setReg x kk)

/-- 7XKK `ADD Vx, byte` (R85): wraps, no flag. -/
def execAddByte (x : RegIdx) (kk : Byte) (s : State) : Host.Outcome State Fault Refusal :=
  .next (s.setReg x (s.reg x + kk))

/-- 8XY0 `LD Vx, Vy` (R86). -/
def execLdReg (x y : RegIdx) (s : State) : Host.Outcome State Fault Refusal := .next (s.setReg x (s.reg y))

/-- 8XY1 `OR Vx, Vy` (R87). -/
def execOrReg (x y : RegIdx) (s : State) : Host.Outcome State Fault Refusal :=
  .next (s.setReg x (s.reg x ||| s.reg y)).logicFlag

/-- 8XY2 `AND Vx, Vy` (R88). -/
def execAndReg (x y : RegIdx) (s : State) : Host.Outcome State Fault Refusal :=
  .next (s.setReg x (s.reg x &&& s.reg y)).logicFlag

/-- 8XY3 `XOR Vx, Vy` (R89). -/
def execXorReg (x y : RegIdx) (s : State) : Host.Outcome State Fault Refusal :=
  .next (s.setReg x (s.reg x ^^^ s.reg y)).logicFlag

/-- 8XY4 `ADD Vx, Vy` (R90). -/
def execAddReg (x y : RegIdx) (s : State) : Host.Outcome State Fault Refusal :=
  .next (s.setResultAndFlag x (s.reg x + s.reg y) (carryFlag (s.reg x) (s.reg y)))

/-- 8XY5 `SUB Vx, Vy` (R91). -/
def execSubReg (x y : RegIdx) (s : State) : Host.Outcome State Fault Refusal :=
  .next (s.setResultAndFlag x (s.reg x - s.reg y) (notBorrowFlag (s.reg x) (s.reg y)))

/-- 8XY6 `SHR Vx, Vy` (R92). -/
def execShr (x y : RegIdx) (s : State) : Host.Outcome State Fault Refusal :=
  .next (s.setResultAndFlag x (shiftSource x y s >>> 1) (shiftedOutRight (shiftSource x y s)))

/-- 8XY7 `SUBN Vx, Vy` (R93). -/
def execSubn (x y : RegIdx) (s : State) : Host.Outcome State Fault Refusal :=
  .next (s.setResultAndFlag x (s.reg y - s.reg x) (notBorrowFlag (s.reg y) (s.reg x)))

/-- 8XYE `SHL Vx, Vy` (R94). -/
def execShl (x y : RegIdx) (s : State) : Host.Outcome State Fault Refusal :=
  .next (s.setResultAndFlag x (shiftSource x y s <<< 1) (shiftedOutLeft (shiftSource x y s)))

/-- CXKK `RND Vx, byte` (R95): one fresh draw per execution. -/
def execRnd (x : RegIdx) (kk : Byte) (s : State) : Host.Outcome State Fault Refusal :=
  .next ((draw s).2.setReg x ((draw s).1 &&& kk))

end Sys2Proof.Machine
end

