-- ==== Sys2Proof/Machine/Blitter.lean ====
section
/-! DEFINITION. The display buffer's XOR blitter and the meanings of CLS and DRW (spec 42_display.md). -/

namespace Sys2Proof.Machine

/-- `DISP[y][x]` (R10, R29). -/
def cellAt (d : Display) (x : Fin 64) (y : Fin 32) : Bool := d[y][x]

/-- `DISP[y][x] <- DISP[y][x] XOR 1`. -/
def toggleCell (d : Display) (x : Fin 64) (y : Fin 32) : Display := d.set y (d[y].set x (!d[y][x]))

/-- One bit of a sprite row, drawn at column offset `c` (bit 7 - c of the row) with the collision flag accumulated;
`(x0 + c) mod 64`, `y mod 32` (R98). -/
def blitBit (x0 y : Nat) (row : Byte) (acc : Display × Bool) (c : Nat) : Display × Bool :=
  if row.getLsbD (7 - c) then
    (toggleCell acc.1 (Fin.ofNat 64 (x0 + c)) (Fin.ofNat 32 y),
      acc.2 || cellAt acc.1 (Fin.ofNat 64 (x0 + c)) (Fin.ofNat 32 y))
  else acc

/-- One sprite row: its eight bits, the leftmost first (R98). -/
def blitRow (x0 y : Nat) (row : Byte) (acc : Display × Bool) : Display × Bool :=
  (List.range 8).foldl (blitBit x0 y row) acc

/-- The sprite's rows, the first at `y`, each next one a row lower (R98). -/
def blitRows (x0 : Nat) : Nat → List Byte → Display × Bool → Display × Bool
  | _, [], acc => acc
  | y, row :: rows, acc => blitRows x0 (y + 1) rows (blitRow x0 y row acc)

/-- The display after the sprite `rows` is drawn with its corner at (x0, y0), and whether any 1-bit landed on a cell
that was on; the flag starts cleared (R98). -/
def blit (x0 y0 : Nat) (rows : List Byte) (d : Display) : Display × Bool := blitRows x0 y0 rows (d, false)

/-- The state after a draw: the display written, then `VF`; the origin is that of the state before (R98). -/
def drawRows (x y : RegIdx) (rows : List Byte) (s : State) : State :=
  (s.setDisp (blit (originX x s) (originY y s) rows s.disp).1).setReg vf
    (flagByte (blit (originX x s) (originY y s) rows s.disp).2)

/-- 00E0 `CLS` (R97). -/
def execCls (s : State) : Host.Outcome State Fault Refusal := .next (s.setDisp blankDisplay)

/-- DXYN `DRW Vx, Vy, nibble` (R98): the rows are read, all checked, before any write. -/
def execDrw (x y : RegIdx) (n : Nat) (s : State) : Host.Outcome State Fault Refusal :=
  complete s ((readBlock s.base n s).map fun rows => drawRows x y rows s)

end Sys2Proof.Machine
end

