-- ==== Sys2Proof/Machine/ControlFlow.lean ====
section
/-! DEFINITION. The meanings of the control-flow instructions (spec 40_control_flow.md). -/

namespace Sys2Proof.Machine

/-- 00EE `RET` (R75). -/
def execRet (s : State) : Host.Outcome State Fault Refusal := complete s ((pop s).map fun r => r.2.setPc r.1)

/-- 1NNN `JP addr` (R76). -/
def execJp (nnn : Addr12) (s : State) : Host.Outcome State Fault Refusal := .next (s.setPc (addrOperand nnn))

/-- 2NNN `CALL addr` (R77): `PC` already holds the address after the CALL. -/
def execCall (nnn : Addr12) (s : State) : Host.Outcome State Fault Refusal :=
  complete s ((push s.pc s).map fun t => t.setPc (addrOperand nnn))

/-- 3XKK `SE Vx, byte` (R78). -/
def execSeByte (x : RegIdx) (kk : Byte) (s : State) : Host.Outcome State Fault Refusal :=
  .next (s.skipIf (s.reg x == kk))

/-- 4XKK `SNE Vx, byte` (R79). -/
def execSneByte (x : RegIdx) (kk : Byte) (s : State) : Host.Outcome State Fault Refusal :=
  .next (s.skipIf (s.reg x != kk))

/-- 5XY0 `SE Vx, Vy` (R80). -/
def execSeReg (x y : RegIdx) (s : State) : Host.Outcome State Fault Refusal :=
  .next (s.skipIf (s.reg x == s.reg y))

/-- 9XY0 `SNE Vx, Vy` (R81). -/
def execSneReg (x y : RegIdx) (s : State) : Host.Outcome State Fault Refusal :=
  .next (s.skipIf (s.reg x != s.reg y))

/-- BNNN `JP V0, addr` (R82): the target is not reduced modulo 4096. -/
def execJpV0 (nnn : Addr12) (s : State) : Host.Outcome State Fault Refusal := .next (s.setPc (indexedTarget nnn s))

end Sys2Proof.Machine
end

