-- ==== Sys2Proof/Machine/IndexMemory.lean ====
section
/-! DEFINITION. The meanings of the address-register and memory-transfer instructions (spec 44_index_memory.md). -/

namespace Sys2Proof.Machine

/-- ANNN `LD I, addr` (R106). -/
def execLdI (nnn : Addr12) (s : State) : Host.Outcome State Fault Refusal := .next (s.setI (addrOperand nnn))

/-- FX1E `ADD I, Vx` (R107): 16-bit wrap, no flag. -/
def execAddI (x : RegIdx) (s : State) : Host.Outcome State Fault Refusal :=
  .next (s.setI (s.i + (s.reg x).setWidth 16))

/-- FX29 `LD F, Vx` (R108). -/
def execLdF (x : RegIdx) (s : State) : Host.Outcome State Fault Refusal := .next (s.setI (glyphAddr (s.reg x)))

/-- FX33 `LD B, Vx` (R109). -/
def execLdB (x : RegIdx) (s : State) : Host.Outcome State Fault Refusal :=
  complete s (writeBlock s.base (bcdDigits (s.reg x)) s)

/-- FX55 `LD [I], Vx` (R110). -/
def execLdMemVx (x : RegIdx) (s : State) : Host.Outcome State Fault Refusal :=
  complete s ((writeBlock s.base (s.regsUpTo x) s).map fun t => t.bumpI x)

/-- FX65 `LD Vx, [I]` (R111). -/
def execLdVxMem (x : RegIdx) (s : State) : Host.Outcome State Fault Refusal :=
  complete s ((readBlock s.base (x.val + 1) s).map fun bs => (s.loadRegs bs).bumpI x)

end Sys2Proof.Machine
end

