-- ==== Sys2Proof/Machine/KeysTimers.lean ====
section
/-! DEFINITION. The meanings of the keyboard and timer instructions (spec 43_keyboard_timers.md). -/

namespace Sys2Proof.Machine

/-- EX9E `SKP Vx` (R100). -/
def execSkp (x : RegIdx) (s : State) : Host.Outcome State Fault Refusal :=
  complete s ((keyOperand (s.reg x) s).map fun pressed => s.skipIf pressed)

/-- EXA1 `SKNP Vx` (R101). -/
def execSknp (x : RegIdx) (s : State) : Host.Outcome State Fault Refusal :=
  complete s ((keyOperand (s.reg x) s).map fun pressed => s.skipIf (!pressed))

/-- FX0A `LD Vx, K` (R102): with no key pressed `pc <- trunc_16(PC - 2)`, so the same word is fetched again. -/
def execLdVxK (x : RegIdx) (s : State) : Host.Outcome State Fault Refusal :=
  match lowestPressed s with
  | none => .next (s.setPc (s.pc - 2))
  | some k => .next (s.setReg x (BitVec.ofNat 8 k.val))

/-- FX07 `LD Vx, DT` (R103). -/
def execLdVxDt (x : RegIdx) (s : State) : Host.Outcome State Fault Refusal := .next (s.setReg x s.dt)

/-- FX15 `LD DT, Vx` (R104): the accumulator is not changed. -/
def execLdDtVx (x : RegIdx) (s : State) : Host.Outcome State Fault Refusal := .next (s.setDt (s.reg x))

/-- FX18 `LD ST, Vx` (R105): the accumulator is not changed. -/
def execLdStVx (x : RegIdx) (s : State) : Host.Outcome State Fault Refusal := .next (s.setSt (s.reg x))

end Sys2Proof.Machine
end

