-- ==== Sys2Proof/Machine/Cycle.lean ====
section
/-! DEFINITION. The cycle of spec 30_encoding.md R70, the block's only step, and the placing of a word where the
next cycle fetches. -/

namespace Sys2Proof.Machine

/-- The no-op check of R70: `RUNNABLE` = 0 or `FAULT` ≠ none. -/
def State.idle (s : State) : Bool := !s.runnable || s.fault.isSome

/-- Decode and execute, in a state whose `PC` is already advanced (R70, R118 events 5 and 6). -/
def decodeAndExecute (op pc0 : Word) (s : State) : Host.Outcome State Fault Refusal :=
  match decode op with
  | .error (.unknownOpcode w) => .next (raise (.unknownOpcode w) pc0 s)
  | .ok i => exec i s

/-- Fetch, advance, decode and execute, in a state whose tick is done (R70, R118 events 3 to 6).  A `FetchFault`
leaves `PC` where it is (R71). -/
def fetchAndExecute (s : State) : Host.Outcome State Fault Refusal :=
  match fetchWord s.pc s with
  | .error k => .next (raise k s.pc s)
  | .ok op => decodeAndExecute op s.pc s.advancePc

/-- `Cycle()` (R70): a no-op, or the timer tick and then at most one instruction. -/
def cycle (s : State) : Host.Outcome State Fault Refusal := if s.idle then .next s else fetchAndExecute (timerTick s)

/-- Where the next cycle fetches: `PC` when a word can be fetched there, else the entry point (log 9). -/
def State.fetchAddr (s : State) : Word := if s.pc.toNat > 0xFFE then 0x200 else s.pc

/-- The state with the instruction whose bits are `w` at the place the next cycle fetches from, and the core able to
run it: `RUNNABLE` = 1, `FAULT` = none, as a load leaves them (R38, R70; log 5, log 9). -/
def placeFetchWord (s : State) (nbits w : Nat) : State :=
  let t := (s.writeByte s.fetchAddr.toNat (highByte (tableWord nbits w))).writeByte (s.fetchAddr.toNat + 1)
    (lowByte (tableWord nbits w))
  { t with pc := s.fetchAddr, runnable := true, fault := none }

end Sys2Proof.Machine
end

