-- ==== Sys2Proof/Machine/Step.lean ====
section
/-! DEFINITION. One step of the machine is one cycle (spec 30_encoding.md R70). -/

namespace Sys2Proof.Machine

/-- One call of the host's "execute one cycle" (R17, R70). -/
def step (s : State) : Host.Outcome State Fault Refusal := cycle s

/-- `s` with the instruction whose bits are `w` stored where `step` fetches, the core runnable and not halted: it
stands for the host's load of a program (R139; log 5). -/
def State.withFetchWord (s : State) (nbits w : Nat) : State := placeFetchWord s nbits w

end Sys2Proof.Machine
end

