-- ==== Sys2Proof/Machine/Ports.lean ====
section
/-! DEFINITION. The host's ports (spec 60_exceptions.md R125 to R137, 70_reset_and_hazards.md R138 to R147).  Each
is one indivisible operation between cycles (R133; log 10). -/

namespace Sys2Proof.Machine

/-! ## Construction (R138, R122) -/

/-- A new core with configuration `cfg`; a configuration outside R122 is refused.  R122 names the refusal of
`CYCLE_UNIT > TICK_PERIOD` and says both are positive; that a zero is refused too is DEDUCED (log 16). -/
def construct (cfg : Config) : Option State := if cfg.Valid then some (State.constructed cfg) else none

/-! ## Load (R139 to R147) -/

/-- What the host presents to the load port (R139). -/
inductive LoadInput where
  | unreadable
  | bytes (rom : List Byte)
  deriving DecidableEq, Repr

/-- What the load port answers (R139 to R141). -/
inductive LoadResult where
  | ok
  | ioError
  | romTooLarge
  deriving DecidableEq, Repr

/-- The state of R38 for `rom`, with `DEBUG_LEVEL` and the random-source mode taken from the current state; the
model's own `cfg` and `drawIndex` stay (R139, R145; log 1, log 4). -/
def loaded (rom : List Byte) (s : State) : State :=
  { State.constructed s.cfg with
    mem := Memory.ofBytes s.cfg progBase rom
    runnable := true
    debugLevel := s.debugLevel
    rngMode := s.rngMode
    drawIndex := s.drawIndex }

/-- `Load(input)` (R139): a failed load changes nothing (R142). -/
def load (input : LoadInput) (s : State) : LoadResult × State :=
  match input with
  | .unreadable => (.ioError, s)
  | .bytes rom => if rom.length > romMax then (.romTooLarge, s) else (.ok, loaded rom s)

/-! ## The step port (R130) -/

/-- What the step port returns (R130). -/
inductive StepResult where
  | notRunnable
  | halted (f : FaultRecord)
  | ok
  deriving DecidableEq, Repr

/-- The step port's answer for a cycle from `s` to `t`. -/
def stepResult (s t : State) : StepResult :=
  if s.runnable then
    match t.fault with
    | some f => .halted f
    | none => .ok
  else .notRunnable

/-- `executeCycle()` (R130): one cycle and what it returns. -/
def executeCycle (s : State) : Host.Outcome (StepResult × State) Fault Refusal :=
  match step s with
  | .next t => .next (stepResult s t, t)
  | .fault r => .fault r
  | .refused r => .refused r

/-! ## The keyboard port (R127) -/

/-- Whether the host's call was valid (R127). -/
inductive CallResult where
  | ok
  | invalid
  deriving DecidableEq, Repr

/-- `updateKey(index, pressed)` (R127): an index above 15 is refused and changes nothing. -/
def updateKey (index : Nat) (pressed : Bool) (s : State) : CallResult × State :=
  if h : index < 16 then (.ok, { s with keys := s.keys.set index pressed }) else (.invalid, s)

/-! ## The display ports (R128, R129) -/

/-- The 2048 cells, row-major: cell (x, y) is element `64 y + x` (R29, R129). -/
def displaySnapshot (s : State) : List Bool := s.disp.toList.flatMap fun row => row.toList

/-- The four bytes R, G, B, A of a colour (R128). -/
def Rgba.bytes (c : Rgba) : List Byte := [c.r, c.g, c.b, c.a]

/-- The four bytes of a cell (R128). -/
def cellBytes (cfg : Config) (on : Bool) : List Byte := if on then Rgba.bytes cfg.onColor else Rgba.bytes cfg.offColor

/-- `renderInto(buffer)` (R128): the buffer after the call; one that is not of 8192 bytes is refused and not
written. -/
def renderInto (buffer : List Byte) (s : State) : CallResult × List Byte :=
  if buffer.length = 8192 then (.ok, (displaySnapshot s).flatMap (cellBytes s.cfg)) else (.invalid, buffer)

/-! ## Beep, debug level and fault (R125, R132, R137) -/

/-- `shouldBeep()`: `ST ≠ 0` (R125). -/
def shouldBeep (s : State) : Bool := s.st != 0

/-- `setDebugLevel(level)` (R132): a level of 1 or more also switches the random source to `fixed`; the draws stay
unconstrained.  The re-seeding moves nothing in the model: the counter of draws is kept (DESIGN CHOICE, log 4). -/
def setDebugLevel (level : Nat) (s : State) : State :=
  { s with debugLevel := level, rngMode := if level ≥ 1 then .fixed else s.rngMode }

/-- What the trace of one cycle reports (R132, R135): registers, stack and opcode; from level 2 on also memory and
display.  DESIGN CHOICE (log 17): the spec does not say which registers the trace's "registers" are (its contents are
open, 93_implementation_defined.md U18); the model takes the register file of 00_scope.md R1, V0 to VF, I and PC,
whose call stack the trace names apart, and not DT, ST or the accumulators. -/
structure TraceItems where
  regs : Vector Byte 16
  i : Word
  pc : Word
  stack : List Word
  opcode : Word
  dump : Option (Memory × Display)
  deriving DecidableEq, Repr

/-- The items reported of a cycle with opcode `op`, read from the state `s` the host traces; silent at level 0.  The
spec leaves the format, and when in the cycle the state is read, to the host (R5; log 17). -/
def traceItems (op : Word) (s : State) : Option TraceItems :=
  if s.debugLevel = 0 then none
  else some ⟨s.regs, s.i, s.pc, s.stack, op, if s.debugLevel ≥ 2 then some (s.mem, s.disp) else none⟩

/-- The fault port: a read of `FAULT` (R137). -/
def readFault (s : State) : Option FaultRecord := s.fault

end Sys2Proof.Machine
end

