-- ==== Sys2Proof/Safety.lean ====
section
/-! DEFINITION. What counts as a safe run, the invariant of the machine, and the words of the spec that the
statements use: a word written out field by field, the fault an instruction raises by R112's table, the decrement
count of R126. -/

namespace Sys2Proof.Machine

/-! ## Runs -/

/-- The core runs an instruction at its next cycle: `RUNNABLE` = 1 and `FAULT` = none (spec R31, R32, R70). -/
abbrev State.Live (s : State) : Prop := s.runnable = true ∧ s.fault = none

/-- No fault is latched. -/
abbrev State.Safe (s : State) : Prop := s.fault = none

/-- `n` cycles run without latching a fault. -/
def SafeRun : Nat → State → Prop
  | 0, s => s.Safe
  | n + 1, s => s.Safe ∧ ∃ t, step s = .next t ∧ SafeRun n t

/-! ## The invariant -/

/-- No listed cell lies in the reserved region 0x000..0x1FF, so it holds what a load puts there (R42, R60). -/
abbrev State.FontIntact (s : State) : Prop := ∀ c ∈ s.mem, progBase ≤ c.1

/-- The invariant of every run that starts at construction: the configuration is one R122 admits, memory is in its
canonical form and the reserved region is as loaded (R41, R60), at most 16 stack entries and none above 0x1000
(R22, R24), `PC` at most 0x10FE (R22), both accumulators equal and at most `TICK_PERIOD` (R28, R124), and a
latched fault only on a runnable core (R31, R32). -/
structure State.Inv (s : State) : Prop where
  config : s.cfg.Valid
  memory : Memory.wf s.cfg s.mem
  font : s.FontIntact
  depth : s.stack.length ≤ stackDepth
  entries : ∀ v ∈ s.stack, v.toNat ≤ 0x1000
  pc : s.pc.toNat ≤ 0x10FE
  accEq : s.accD = s.accS
  accLe : s.accD ≤ s.cfg.tickPeriod
  faultRunnable : s.fault ≠ none → s.runnable = true

/-! ## Words written out from the templates (R62, R74) -/

/-- The word with nibbles G, X, Y, N. -/
def wordXYN (g : Nat) (x y : RegIdx) (n : Nat) : Word := BitVec.ofNat 16 (g * 0x1000 + x.val * 0x100 + y.val * 0x10 + n)

/-- The word with nibbles G, X and the byte KK. -/
def wordXKK (g : Nat) (x : RegIdx) (kk : Byte) : Word := BitVec.ofNat 16 (g * 0x1000 + x.val * 0x100 + kk.toNat)

/-- The word with nibble G and the address NNN. -/
def wordNNN (g : Nat) (nnn : Addr12) : Word := BitVec.ofNat 16 (g * 0x1000 + nnn.toNat)

/-- The word `w` is the instruction `i`, read and written. -/
abbrev Encodes (w : Word) (i : Instr) : Prop := decode w = .ok i ∧ encode i = w

/-! ## Faults by R112's table -/

/-- The fault of a read of `k` bytes from `a` on, in R53's words: the lowest address above 0xFFF, if there is one. -/
def readFaultOf (a k : Nat) : Option FaultKind :=
  if k = 0 ∨ a + k ≤ 0x1000 then none
  else if a ≤ 0xFFF then some (.addressFault 0x1000)
  else some (.addressFault a)

/-- The fault of a store of `k` bytes from `a` on, in R53's words. -/
def storeFaultOf (a k : Nat) : Option FaultKind :=
  if a < 0x200 then some (.reservedWriteFault a) else readFaultOf a k

/-- The fault R112's table gives an instruction in a state of the execute stage. -/
def faultOf (i : Instr) (s : State) : Option FaultKind :=
  match i with
  | .ret => if s.sp = 0 then some .stackUnderflow else none
  | .call _ => if s.sp = 16 then some .stackOverflow else none
  | .drw _ _ n => readFaultOf s.i.toNat n
  | .ldB _ => storeFaultOf s.i.toNat 3
  | .ldMemVx x => storeFaultOf s.i.toNat (x.val + 1)
  | .ldVxMem x => readFaultOf s.i.toNat (x.val + 1)
  | .skp x | .sknp x => if (s.reg x).toNat > 15 then some (.keyIndexFault (s.reg x)) else none
  | .cls | .jp _ | .seByte _ _ | .sneByte _ _ | .seReg _ _ | .sneReg _ _ | .jpV0 _ => none
  | .ldByte _ _ | .addByte _ _ | .ldReg _ _ | .orReg _ _ | .andReg _ _ | .xorReg _ _ | .addReg _ _ => none
  | .subReg _ _ | .shr _ _ | .subn _ _ | .shl _ _ | .rnd _ _ => none
  | .ldI _ | .ldVxDt _ | .ldVxK _ | .ldDtVx _ | .ldStVx _ | .addI _ | .ldF _ => none

/-! ## Fetches after a store (R57) -/

/-- In `t`, and after the tick of the next cycle too, every fetch reads the stored values at the `count` addresses from
`first` on and the bytes of `s` elsewhere, in either byte of the word. -/
def FetchesStored (s t : State) (first count : Nat) (stored : Nat → Nat) : Prop :=
  ∀ a, a ≤ 0xFFE → ∃ hi lo : Byte,
    fetchWord (BitVec.ofNat 16 a) t = .ok (hi ++ lo) ∧ fetchWord (BitVec.ofNat 16 a) (timerTick t) = .ok (hi ++ lo) ∧
    (∀ k, k < count → a = first + k → hi.toNat = stored k) ∧
    (∀ k, k < count → a + 1 = first + k → lo.toNat = stored k) ∧
    (a < first ∨ first + count ≤ a → hi = s.readByte a) ∧
    (a + 1 < first ∨ first + count ≤ a + 1 → lo = s.readByte (a + 1))

/-! ## The timer law (R126) -/

/-- `d(n) = ⌈n·CYCLE_UNIT / TICK_PERIOD⌉ − 1`, with `d(0) = 0`. -/
def decrementCount (cfg : Config) (n : Nat) : Nat :=
  if n = 0 then 0 else (n * cfg.cycleUnit + cfg.tickPeriod - 1) / cfg.tickPeriod - 1

end Sys2Proof.Machine
end

