-- ==== Sys2Proof/Certificates/Slice0/Obligations.lean ====
section
/-! DEFINITION. The statements for the provers.  `exec i s` runs in the execute stage, where `PC` is the
instruction's address plus 2 (spec R21), so the address a raise records is `s.pc - 2`.  `t = { s with … }` in a
statement is the frame: every field of State not named there is unchanged. -/

open Sys2Proof Sys2Proof.Machine

/-! ## Encoding (30_encoding.md) -/

/-- Decoding an encoded well-formed instruction gives it back, every operand at every value (R62, R65, R74). -/
def Obligations.DecodeInvertsEncode : Prop :=
  ∀ i : Instr, i.wellFormed = true → decode (encode i) = .ok i

/-- A word that decodes is the encoding of what it decodes to, which is well-formed: no bit is dropped (R62 to R66). -/
def Obligations.EncodeInvertsDecode : Prop :=
  ∀ (op : Word) (i : Instr), decode op = .ok i → encode i = op ∧ i.wellFormed = true

/-- The 34 templates are pairwise disjoint (R66). -/
def Obligations.TemplatesAreDisjoint : Prop :=
  opcodeTable.length = 34 ∧
  opcodeTable.Pairwise fun r q => ∀ op : Word, ¬ (r.matches op = true ∧ q.matches op = true)

/-- The words that match no template are exactly the five classes R67 lists, and each raises UnknownOpcode of
itself. -/
def Obligations.IllegalWordsAreTheListedOnes : Prop :=
  ∀ op : Word,
    decode op = .error (.unknownOpcode op) ↔
      (op.toNat ≤ 0x0FFF ∧ op.toNat ≠ 0x00E0 ∧ op.toNat ≠ 0x00EE) ∨
      ((op.toNat / 0x1000 = 5 ∨ op.toNat / 0x1000 = 9) ∧ op.toNat % 0x10 ≠ 0) ∨
      (op.toNat / 0x1000 = 8 ∧ op.toNat % 0x10 ∈ [8, 9, 0xA, 0xB, 0xC, 0xD, 0xF]) ∨
      (op.toNat / 0x1000 = 0xE ∧ op.toNat % 0x100 ∉ [0x9E, 0xA1]) ∨
      (op.toNat / 0x1000 = 0xF ∧
        op.toNat % 0x100 ∉ [0x07, 0x0A, 0x15, 0x18, 0x1E, 0x29, 0x33, 0x55, 0x65])

/-- Words of the spec's own examples, one or more for each family. -/
def Obligations.SampleWordsDecode : Prop :=
  decode 0x8344 = .ok (.addReg 3 4) ∧ decode 0xD015 = .ok (.drw 0 1 5) ∧ decode 0x8FFE = .ok (.shl 15 15) ∧
  decode 0x3210 = .ok (.seByte 2 0x10) ∧ decode 0x2400 = .ok (.call 0x400) ∧ decode 0xBFFF = .ok (.jpV0 0xFFF) ∧
  decode 0x00E0 = .ok .cls ∧ decode 0xE1A1 = .ok (.sknp 1) ∧ decode 0xF30A = .ok (.ldVxK 3) ∧
  decode 0xF255 = .ok (.ldMemVx 2) ∧ decode 0xA2F0 = .ok (.ldI 0x2F0)

/-! ## Memory primitives (20_memory.md) -/

/-- `FetchWord` (R52): FetchFault above 0xFFE, else the big-endian word. -/
def Obligations.FetchIsBigEndian : Prop :=
  ∀ (s : State) (pc : Word),
    (pc.toNat > 0xFFE → fetchWord pc s = .error (.fetchFault pc)) ∧
    (pc.toNat ≤ 0xFFE → ∃ w, fetchWord pc s = .ok w ∧
      w.toNat = (s.readByte pc.toNat).toNat * 0x100 + (s.readByte (pc.toNat + 1)).toNat)

/-- `MemRead` and `MemWrite` (R50, R51): the checks, the byte, and every other byte left alone.  That a read gives
the byte written needs the canonical form, which every step keeps (StepKeepsTheInvariant). -/
def Obligations.MemoryPrimitives : Prop :=
  ∀ (s : State) (a : Nat) (v : Byte),
    (a > 0xFFF → memRead a s = .error (.addressFault a) ∧ memWrite a v s = .error (.addressFault a)) ∧
    (a ≤ 0xFFF → memRead a s = .ok (s.readByte a)) ∧
    (a < 0x200 → memWrite a v s = .error (.reservedWriteFault a)) ∧
    (0x200 ≤ a → a ≤ 0xFFF → ∃ t, memWrite a v s = .ok t ∧ t = { s with mem := t.mem } ∧
      (Memory.wf s.cfg s.mem → t.readByte a = v) ∧ ∀ b, b ≠ a → t.readByte b = s.readByte b)

/-! ## The cycle (30_encoding.md R70, R71; 60_exceptions.md R112 to R118) -/

/-- R70, clause by clause: the no-op check, the tick, the fetch, the advance, the decode, the execute, and the
address every fault record of the cycle holds. -/
def Obligations.StepRunsTheDecodedInstruction : Prop :=
  ∀ s : State,
    ((s.runnable = false ∨ s.fault ≠ none) → step s = .next s) ∧
    (s.Live →
      (∀ k, fetchWord s.pc (timerTick s) = .error k →
        step s = .next { timerTick s with fault := some ⟨k, s.pc⟩ }) ∧
      (∀ op, fetchWord s.pc (timerTick s) = .ok op →
        (∀ i, decode op = .ok i → step s = exec i { timerTick s with pc := s.pc + 2 }) ∧
        (decode op = .error (.unknownOpcode op) →
          step s = .next { timerTick s with pc := s.pc + 2, fault := some ⟨.unknownOpcode op, s.pc⟩ }) ∧
        (decode op = .error (.unknownOpcode op) ∨ ∃ i, decode op = .ok i)) ∧
      (∀ t r, step s = .next t → t.fault = some r → r.pc = s.pc))

/-- R115 and R71: when a cycle raises, the state is the state before it with the tick applied, `PC` advanced unless
the fetch faulted, and `FAULT` set; nothing else. -/
def Obligations.FaultsArePrecise : Prop :=
  ∀ (s t : State) (r : FaultRecord), s.Live → step s = .next t → t.fault = some r →
    ((∃ a, r.kind = .fetchFault a) → t = { timerTick s with fault := some r }) ∧
    ((∀ a, r.kind ≠ .fetchFault a) → t = { timerTick s with pc := s.pc + 2, fault := some r })

/-- R112: the cause codes and infos; the fetch and decode faults; and the execute-stage fault of every instruction,
raised exactly under its condition, with the lowest faulting address (R53). -/
def Obligations.FaultsAreThoseOfTheTable : Prop :=
  (∀ (w : Word) (v : Byte) (a : Nat),
    (FaultKind.fetchFault w).code = 1 ∧ (FaultKind.fetchFault w).info = some w.toNat ∧
    (FaultKind.unknownOpcode w).code = 2 ∧ (FaultKind.unknownOpcode w).info = some w.toNat ∧
    FaultKind.stackOverflow.code = 3 ∧ FaultKind.stackOverflow.info = none ∧
    FaultKind.stackUnderflow.code = 4 ∧ FaultKind.stackUnderflow.info = none ∧
    (FaultKind.addressFault a).code = 5 ∧ (FaultKind.addressFault a).info = some a ∧
    (FaultKind.reservedWriteFault a).code = 6 ∧ (FaultKind.reservedWriteFault a).info = some a ∧
    (FaultKind.keyIndexFault v).code = 7 ∧ (FaultKind.keyIndexFault v).info = some v.toNat) ∧
  (∀ (i : Instr) (s : State), s.fault = none →
    ∃ t, exec i s = .next t ∧ t.fault = (faultOf i s).map fun k => ⟨k, s.pc - 2⟩) ∧
  (∀ s : State, s.Live → s.pc.toNat > 0xFFE →
    ∃ t, step s = .next t ∧ t.fault = some ⟨.fetchFault s.pc, s.pc⟩) ∧
  (∀ (s : State) (op : Word), s.Live → fetchWord s.pc s = .ok op → decode op = .error (.unknownOpcode op) →
    ∃ t, step s = .next t ∧ t.fault = some ⟨.unknownOpcode op, s.pc⟩)

/-- R114: a halted core's cycle changes nothing, only a successful load clears the fault, and the host's other ports
keep working. -/
def Obligations.HaltedCoreStaysHalted : Prop :=
  ∀ s : State, s.fault ≠ none →
    step s = .next s ∧
    (∀ input, ((load input s).1 = .ok → (load input s).2.fault = none) ∧
      ((load input s).1 ≠ .ok → (load input s).2 = s)) ∧
    (∀ k p, (updateKey k p s).2.fault = s.fault ∧
      ∀ h : k < 16, (updateKey k p s).1 = .ok ∧ (updateKey k p s).2.keys[k] = p) ∧
    (∀ l, (setDebugLevel l s).fault = s.fault ∧ (setDebugLevel l s).debugLevel = l) ∧
    (∀ buffer, renderInto buffer s = renderInto buffer { s with fault := none }) ∧
    shouldBeep s = shouldBeep { s with fault := none }

/-- R31: `RUNNABLE` is 0 until a load succeeds, then 1; no cycle and no failed load changes it, and while it is 0 a
cycle does nothing. -/
def Obligations.RunnableFollowsTheLoad : Prop :=
  (∀ cfg s, construct cfg = some s → s.runnable = false) ∧
  (∀ input s, ((load input s).1 = .ok → (load input s).2.runnable = true) ∧
    ((load input s).1 ≠ .ok → (load input s).2.runnable = s.runnable)) ∧
  (∀ s : State, s.runnable = false → step s = .next s) ∧
  (∀ s t : State, step s = .next t → t.runnable = s.runnable)

/-- The step function is total: no state makes the machine stop without a next state, since every fault of R112 is
latched (R113; the model's choice to show a fault as a next state is log 6). -/
def Obligations.EveryStepHasANextState : Prop :=
  ∀ s : State, ∃ t, step s = .next t

/-! ## The invariant -/

/-- Every step keeps the invariant of Safety.lean: canonical memory with the font region as loaded, the stack's
bounds, the range of PC that R22 derives, equal and bounded accumulators. -/
def Obligations.StepKeepsTheInvariant : Prop :=
  ∀ s t : State, s.Inv → step s = .next t → t.Inv

/-- Reset and every construction meet the invariant; a configuration outside R122 is refused.  Two points are the
model's, not the spec's words: that reset is the constructed core (log 5, DEDUCED), and that `CYCLE_UNIT` = 0 is
refused, where R122 names only the refusal of `CYCLE_UNIT > TICK_PERIOD` (log 16, DEDUCED). -/
def Obligations.ConstructionMeetsTheInvariant : Prop :=
  State.reset.Inv ∧
  (∀ cfg s, construct cfg = some s → s.Inv) ∧
  (∀ cfg : Config, construct cfg = none ↔ (cfg.cycleUnit = 0 ∨ cfg.cycleUnit > cfg.tickPeriod))

/-- Every port that changes state keeps the invariant (R127, R132, R139). -/
def Obligations.PortsKeepTheInvariant : Prop :=
  ∀ s : State, s.Inv →
    (∀ input, (load input s).2.Inv) ∧ (∀ k p, (updateKey k p s).2.Inv) ∧ (∀ l, (setDebugLevel l s).Inv)

/-! ## Timers (60_exceptions.md) -/

/-- `TimerTick()` (R123): both timers by the same rule, strictly greater, saturating at 0, nothing else changed; one
tick in every cycle that is not a no-op, none in one that is. -/
def Obligations.TimerTickRule : Prop :=
  ∀ s : State, ∃ t, t = timerTick s ∧
    t = { s with accD := t.accD, dt := t.dt, accS := t.accS, st := t.st } ∧
    (s.accD + s.cfg.cycleUnit > s.cfg.tickPeriod →
      t.accD = s.accD + s.cfg.cycleUnit - s.cfg.tickPeriod ∧ t.dt.toNat = s.dt.toNat - 1) ∧
    (s.accD + s.cfg.cycleUnit ≤ s.cfg.tickPeriod → t.accD = s.accD + s.cfg.cycleUnit ∧ t.dt = s.dt) ∧
    (s.accS + s.cfg.cycleUnit > s.cfg.tickPeriod →
      t.accS = s.accS + s.cfg.cycleUnit - s.cfg.tickPeriod ∧ t.st.toNat = s.st.toNat - 1) ∧
    (s.accS + s.cfg.cycleUnit ≤ s.cfg.tickPeriod → t.accS = s.accS + s.cfg.cycleUnit ∧ t.st = s.st) ∧
    (s.Live → ∃ u, step s = .next u ∧ u.accD = t.accD ∧ u.accS = t.accS) ∧
    (¬ s.Live → step s = .next s)

/-- The timer law R126, over ticks from accumulators at 0: the accumulators after n ticks, and a timer written after
m ticks. -/
def Obligations.TimerLaw : Prop :=
  ∀ s : State, s.cfg.Valid → s.accD = 0 → s.accS = 0 →
    (∀ n, 1 ≤ n →
      (timerTick^[n] s).accD + decrementCount s.cfg n * s.cfg.tickPeriod = n * s.cfg.cycleUnit ∧
      (timerTick^[n] s).accS + decrementCount s.cfg n * s.cfg.tickPeriod = n * s.cfg.cycleUnit) ∧
    (∀ (m k : Nat) (v : Byte),
      (timerTick^[k] ((timerTick^[m] s).setDt v)).dt.toNat =
        v.toNat - (decrementCount s.cfg (m + k) - decrementCount s.cfg m) ∧
      (timerTick^[k] ((timerTick^[m] s).setSt v)).st.toNat =
        v.toNat - (decrementCount s.cfg (m + k) - decrementCount s.cfg m))

/-- R124: nothing but a load and the tick changes an accumulator.  No instruction does; a live cycle leaves them as its
tick does and an idle one as they were; the key port, the debug-level port and a failed load keep them; a successful
load clears them. -/
def Obligations.AccumulatorsMoveOnlyByTickAndLoad : Prop :=
  (∀ (i : Instr) (s t : State), exec i s = .next t → t.accD = s.accD ∧ t.accS = s.accS) ∧
  (∀ s t : State, s.Live → step s = .next t → t.accD = (timerTick s).accD ∧ t.accS = (timerTick s).accS) ∧
  (∀ s t : State, ¬ s.Live → step s = .next t → t.accD = s.accD ∧ t.accS = s.accS) ∧
  (∀ (k : Nat) (p : Bool) (s : State), (updateKey k p s).2.accD = s.accD ∧ (updateKey k p s).2.accS = s.accS) ∧
  (∀ (l : Nat) (s : State), (setDebugLevel l s).accD = s.accD ∧ (setDebugLevel l s).accS = s.accS) ∧
  (∀ (input : LoadInput) (s : State), (load input s).1 ≠ .ok →
    (load input s).2.accD = s.accD ∧ (load input s).2.accS = s.accS) ∧
  (∀ (input : LoadInput) (s : State), (load input s).1 = .ok →
    (load input s).2.accD = 0 ∧ (load input s).2.accS = 0)

/-- R125: the beep is on exactly while ST is not 0; a halted core keeps it. -/
def Obligations.BeepFollowsTheSoundTimer : Prop :=
  ∀ s : State, (shouldBeep s = true ↔ s.st ≠ 0) ∧
    (s.fault ≠ none → ∃ t, step s = .next t ∧ shouldBeep t = shouldBeep s)

/-! ## Who writes what (10_state.md, 20_memory.md, 42_display.md) -/

/-- R24: only CALL pushes and only RET pops; every other instruction leaves the stack alone. -/
def Obligations.OnlyCallAndReturnChangeTheStack : Prop :=
  ∀ (i : Instr) (s t : State), exec i s = .next t →
    t.stack = s.stack ∨ (∃ nnn, i = .call nnn ∧ ∃ v, t.stack = v :: s.stack) ∨
    (i = .ret ∧ ∃ v, s.stack = v :: t.stack)

/-- R23: I is written by ANNN, FX1E and FX29, and by FX55 and FX65 only under QUIRK_MEM_INCREMENT_I. -/
def Obligations.WritersOfTheAddressRegister : Prop :=
  ∀ (i : Instr) (s t : State), exec i s = .next t → t.i ≠ s.i →
    (∃ nnn, i = .ldI nnn) ∨ (∃ x, i = .addI x) ∨ (∃ x, i = .ldF x) ∨
    (s.cfg.quirkMemIncrementI = true ∧ ∃ x, i = .ldMemVx x ∨ i = .ldVxMem x)

/-- R99 (c), R29: the display changes only by CLS and DRW, at any cycle. -/
def Obligations.OnlyClearAndDrawChangeTheDisplay : Prop :=
  (∀ (i : Instr) (s t : State), exec i s = .next t → t.disp ≠ s.disp → i = .cls ∨ ∃ x y n, i = .drw x y n) ∧
  (∀ s : State, (timerTick s).disp = s.disp ∧ (∀ k p, (updateKey k p s).2.disp = s.disp) ∧
    ∀ l, (setDebugLevel l s).disp = s.disp)

/-- R60: no instruction but FX33 and FX55 changes any byte of memory, and those two only inside their own block,
whose first address is I. -/
def Obligations.OnlyStoresChangeMemory : Prop :=
  ∀ (i : Instr) (s t : State) (a : Nat), exec i s = .next t → t.readByte a ≠ s.readByte a →
    0x200 ≤ s.base ∧ ((∃ x, i = .ldB x ∧ s.base ≤ a ∧ a < s.base + 3) ∨
      ∃ x : RegIdx, i = .ldMemVx x ∧ s.base ≤ a ∧ a < s.base + (x.val + 1))

/-- R60, R49: no cycle ever changes a byte of the reserved region 0x000..0x1FF. -/
def Obligations.NoStepChangesTheReservedRegion : Prop :=
  ∀ (s t : State) (a : Nat), a < 0x200 → step s = .next t → t.readByte a = s.readByte a

/-- R30, R34, R35, R36, R40: no cycle writes the keys, RUNNABLE, DEBUG_LEVEL, the random-source mode or the
configuration. -/
def Obligations.StepLeavesHostStateAlone : Prop :=
  ∀ s t : State, step s = .next t →
    t.keys = s.keys ∧ t.runnable = s.runnable ∧ t.debugLevel = s.debugLevel ∧ t.rngMode = s.rngMode ∧ t.cfg = s.cfg

/-- R19: the instructions that write VF without naming it; every other instruction changes register 15 only as its
named destination. -/
def Obligations.ImplicitWritersOfTheFlag : Prop :=
  ∀ (i : Instr) (s t : State), exec i s = .next t → t.reg 15 ≠ s.reg 15 →
    (∃ x y, i = .addReg x y ∨ i = .subReg x y ∨ i = .shr x y ∨ i = .subn x y ∨ i = .shl x y) ∨
    (∃ x y n, i = .drw x y n) ∨
    (s.cfg.quirkLogicVfReset = true ∧ ∃ x y, i = .orReg x y ∨ i = .andReg x y ∨ i = .xorReg x y) ∨
    (∃ kk, i = .ldByte 15 kk ∨ i = .addByte 15 kk ∨ i = .rnd 15 kk) ∨
    (∃ y, i = .ldReg 15 y ∨ i = .orReg 15 y ∨ i = .andReg 15 y ∨ i = .xorReg 15 y) ∨
    i = .ldVxDt 15 ∨ i = .ldVxK 15 ∨ i = .ldVxMem 15

/-- R36, R132, R135: the debug level and the random-source mode change nothing a cycle does.  For CXKK this is the
model's choice (log 4, DESIGN CHOICE): R132 re-seeds the random source at a level of 1 or more, and in the model the
draw is the same with and without the re-seeding, because the port keeps the counter of draws. -/
def Obligations.DebugLevelIsNotObservable : Prop :=
  ∀ (l : Nat) (s t : State),
    setDebugLevel l s = { s with debugLevel := l, rngMode := if 1 ≤ l then .fixed else s.rngMode } ∧
    (step s = .next t → step (setDebugLevel l s) = .next (setDebugLevel l t))

/-! ## Control flow (40_control_flow.md) -/

/-- RET (R75). -/
def Obligations.ReturnPopsTheStack : Prop :=
  Encodes 0x00EE .ret ∧ ∀ s : State,
    (s.sp = 0 → exec .ret s = .next { s with fault := some ⟨.stackUnderflow, s.pc - 2⟩ }) ∧
    (0 < s.sp → ∃ target t, s.stackEntry (s.sp - 1) = some target ∧ exec .ret s = .next t ∧
      t = { s with stack := t.stack, pc := target } ∧ t.sp = s.sp - 1 ∧
      ∀ k, k < t.sp → t.stackEntry k = s.stackEntry k)

/-- JP (R76). -/
def Obligations.JumpSetsThePc : Prop :=
  ∀ (nnn : Addr12) (s : State), Encodes (wordNNN 1 nnn) (.jp nnn) ∧
    exec (.jp nnn) s = .next { s with pc := BitVec.ofNat 16 nnn.toNat }

/-- CALL (R77). -/
def Obligations.CallPushesTheAdvancedPc : Prop :=
  ∀ (nnn : Addr12) (s : State), Encodes (wordNNN 2 nnn) (.call nnn) ∧
    (s.sp = 16 → exec (.call nnn) s = .next { s with fault := some ⟨.stackOverflow, s.pc - 2⟩ }) ∧
    (s.sp ≠ 16 → ∃ t, exec (.call nnn) s = .next t ∧
      t = { s with stack := t.stack, pc := BitVec.ofNat 16 nnn.toNat } ∧
      t.sp = s.sp + 1 ∧ t.stackEntry s.sp = some s.pc ∧ ∀ k, k < s.sp → t.stackEntry k = s.stackEntry k)

/-- The four compare skips (R78 to R81, with the skip of R14). -/
def Obligations.SkipsCompareRegisters : Prop :=
  ∀ (x y : RegIdx) (kk : Byte) (s : State),
    Encodes (wordXKK 3 x kk) (.seByte x kk) ∧ Encodes (wordXKK 4 x kk) (.sneByte x kk) ∧
    Encodes (wordXYN 5 x y 0) (.seReg x y) ∧ Encodes (wordXYN 9 x y 0) (.sneReg x y) ∧
    exec (.seByte x kk) s = .next { s with pc := if s.reg x = kk then s.pc + 2 else s.pc } ∧
    exec (.sneByte x kk) s = .next { s with pc := if s.reg x ≠ kk then s.pc + 2 else s.pc } ∧
    exec (.seReg x y) s = .next { s with pc := if s.reg x = s.reg y then s.pc + 2 else s.pc } ∧
    exec (.sneReg x y) s = .next { s with pc := if s.reg x ≠ s.reg y then s.pc + 2 else s.pc }

/-- JP V0 (R82): address plus register 0, not reduced modulo 4096. -/
def Obligations.IndexedJumpAddsRegisterZero : Prop :=
  ∀ (nnn : Addr12) (s : State), Encodes (wordNNN 0xB nnn) (.jpV0 nnn) ∧
    ∃ t, exec (.jpV0 nnn) s = .next t ∧ t = { s with pc := t.pc } ∧
      t.pc.toNat = nnn.toNat + (s.reg 0).toNat ∧ t.pc.toNat ≤ 0x10FE

/-! ## Registers and ALU (41_register_alu.md) -/

/-- LD byte, ADD byte, LD register (R84, R85, R86): the destination's new value, no other register and no flag. -/
def Obligations.RegisterLoadsAndIncrement : Prop :=
  ∀ (x y : RegIdx) (kk : Byte) (s : State),
    Encodes (wordXKK 6 x kk) (.ldByte x kk) ∧ Encodes (wordXKK 7 x kk) (.addByte x kk) ∧
    Encodes (wordXYN 8 x y 0) (.ldReg x y) ∧
    (∃ t, exec (.ldByte x kk) s = .next t ∧ t = { s with regs := t.regs } ∧
      t.reg x = kk ∧ ∀ k, k ≠ x → t.reg k = s.reg k) ∧
    (∃ t, exec (.addByte x kk) s = .next t ∧ t = { s with regs := t.regs } ∧
      (t.reg x).toNat = ((s.reg x).toNat + kk.toNat) % 256 ∧ ∀ k, k ≠ x → t.reg k = s.reg k) ∧
    (∃ t, exec (.ldReg x y) s = .next t ∧ t = { s with regs := t.regs } ∧
      t.reg x = s.reg y ∧ ∀ k, k ≠ x → t.reg k = s.reg k)

/-- OR, AND, XOR (R87, R88, R89) bit by bit, with VF cleared under QUIRK_LOGIC_VF_RESET and only then. -/
def Obligations.LogicOperations : Prop :=
  ∀ (x y : RegIdx) (s : State),
    Encodes (wordXYN 8 x y 1) (.orReg x y) ∧ Encodes (wordXYN 8 x y 2) (.andReg x y) ∧
    Encodes (wordXYN 8 x y 3) (.xorReg x y) ∧
    ∃ o a e, exec (.orReg x y) s = .next o ∧ exec (.andReg x y) s = .next a ∧ exec (.xorReg x y) s = .next e ∧
      o = { s with regs := o.regs } ∧ a = { s with regs := a.regs } ∧ e = { s with regs := e.regs } ∧
      (∀ k, k ≠ x → k ≠ 15 → o.reg k = s.reg k ∧ a.reg k = s.reg k ∧ e.reg k = s.reg k) ∧
      (s.cfg.quirkLogicVfReset = true → o.reg 15 = 0 ∧ a.reg 15 = 0 ∧ e.reg 15 = 0) ∧
      (s.cfg.quirkLogicVfReset = false → x ≠ 15 →
        o.reg 15 = s.reg 15 ∧ a.reg 15 = s.reg 15 ∧ e.reg 15 = s.reg 15) ∧
      ((s.cfg.quirkLogicVfReset = false ∨ x ≠ 15) → ∀ b, b < 8 →
        (o.reg x).getLsbD b = ((s.reg x).getLsbD b || (s.reg y).getLsbD b) ∧
        (a.reg x).getLsbD b = ((s.reg x).getLsbD b && (s.reg y).getLsbD b) ∧
        (e.reg x).getLsbD b = ((s.reg x).getLsbD b ^^ (s.reg y).getLsbD b))

/-- ADD register (R90): the sum modulo 256, VF the carry, written last. -/
def Obligations.AddSetsTheCarry : Prop :=
  ∀ (x y : RegIdx) (s : State), Encodes (wordXYN 8 x y 4) (.addReg x y) ∧
    ∃ t, exec (.addReg x y) s = .next t ∧ t = { s with regs := t.regs } ∧
      (x ≠ 15 → (t.reg x).toNat = ((s.reg x).toNat + (s.reg y).toNat) % 256) ∧
      (t.reg 15).toNat = ((s.reg x).toNat + (s.reg y).toNat) / 256 ∧
      ∀ k, k ≠ x → k ≠ 15 → t.reg k = s.reg k

/-- SUB and SUBN (R91, R93): both operand orders, VF = 1 when no borrow, the equal case included, written last. -/
def Obligations.SubtractionsSetNotBorrow : Prop :=
  ∀ (x y : RegIdx) (s : State),
    Encodes (wordXYN 8 x y 5) (.subReg x y) ∧ Encodes (wordXYN 8 x y 7) (.subn x y) ∧
    (∃ t, exec (.subReg x y) s = .next t ∧ t = { s with regs := t.regs } ∧
      (x ≠ 15 → (t.reg x).toNat = ((s.reg x).toNat + 256 - (s.reg y).toNat) % 256) ∧
      ((s.reg x).toNat ≥ (s.reg y).toNat → t.reg 15 = 1) ∧ ((s.reg x).toNat < (s.reg y).toNat → t.reg 15 = 0) ∧
      ∀ k, k ≠ x → k ≠ 15 → t.reg k = s.reg k) ∧
    (∃ t, exec (.subn x y) s = .next t ∧ t = { s with regs := t.regs } ∧
      (x ≠ 15 → (t.reg x).toNat = ((s.reg y).toNat + 256 - (s.reg x).toNat) % 256) ∧
      ((s.reg y).toNat ≥ (s.reg x).toNat → t.reg 15 = 1) ∧ ((s.reg y).toNat < (s.reg x).toNat → t.reg 15 = 0) ∧
      ∀ k, k ≠ x → k ≠ 15 → t.reg k = s.reg k)

/-- SHR and SHL (R92, R94): the source by QUIRK_SHIFT_VY, VF the bit shifted out, written last. -/
def Obligations.ShiftsSetTheShiftedOutBit : Prop :=
  ∀ (x y : RegIdx) (s : State) (src : Byte), src = (if s.cfg.quirkShiftVy = true then s.reg y else s.reg x) →
    Encodes (wordXYN 8 x y 6) (.shr x y) ∧ Encodes (wordXYN 8 x y 0xE) (.shl x y) ∧
    (∃ t, exec (.shr x y) s = .next t ∧ t = { s with regs := t.regs } ∧
      (x ≠ 15 → (t.reg x).toNat = src.toNat / 2) ∧ (t.reg 15).toNat = src.toNat % 2 ∧
      ∀ k, k ≠ x → k ≠ 15 → t.reg k = s.reg k) ∧
    (∃ t, exec (.shl x y) s = .next t ∧ t = { s with regs := t.regs } ∧
      (x ≠ 15 → (t.reg x).toNat = src.toNat * 2 % 256) ∧ (t.reg 15).toNat = src.toNat / 128 ∧
      ∀ k, k ≠ x → k ≠ 15 → t.reg k = s.reg k)

/-- RND (R95): the next draw, whatever it is, masked; one fresh draw per execution.  The draw is a free value (log
4): the statement holds for every one. -/
def Obligations.RandomIsAMaskedDraw : Prop :=
  ∀ (x : RegIdx) (kk : Byte) (s : State), Encodes (wordXKK 0xC x kk) (.rnd x kk) ∧
    ∃ t, exec (.rnd x kk) s = .next t ∧ t = { s with regs := t.regs, drawIndex := s.drawIndex + 1 } ∧
      t.reg x = Config.randomByte s.drawIndex &&& kk ∧ ∀ k, k ≠ x → t.reg k = s.reg k

/-! ## Display (42_display.md) -/

/-- CLS (R97). -/
def Obligations.ClearTurnsEveryCellOff : Prop :=
  Encodes 0x00E0 .cls ∧ ∀ s : State, ∃ t, exec .cls s = .next t ∧ t = { s with disp := t.disp } ∧
    ∀ x y, cellAt t.disp x y = false

/-- DRW (R98): the fault; else every cell a sprite bit falls on XORed with that bit, every other cell unchanged, VF
the collision, nothing else changed. -/
def Obligations.DrawXorsTheSprite : Prop :=
  ∀ (x y : RegIdx) (n : Nat) (s : State), n ≤ 15 →
    Encodes (wordXYN 0xD x y n) (.drw x y n) ∧
    (0 < n → s.i.toNat + n > 0x1000 →
      exec (.drw x y n) s = .next { s with fault := some ⟨.addressFault (max s.i.toNat 0x1000), s.pc - 2⟩ }) ∧
    ((n = 0 ∨ s.i.toNat + n ≤ 0x1000) → ∃ t, exec (.drw x y n) s = .next t ∧
      t = { s with regs := t.regs, disp := t.disp } ∧ (∀ k, k ≠ 15 → t.reg k = s.reg k) ∧
      (∀ r c, r < n → c < 8 →
        cellAt t.disp (Fin.ofNat 64 ((s.reg x).toNat % 64 + c)) (Fin.ofNat 32 ((s.reg y).toNat % 32 + r)) =
          (cellAt s.disp (Fin.ofNat 64 ((s.reg x).toNat % 64 + c)) (Fin.ofNat 32 ((s.reg y).toNat % 32 + r)) ^^
            (s.readByte (s.i.toNat + r)).getLsbD (7 - c))) ∧
      (∀ px py, (∀ r c, r < n → c < 8 →
          ¬ (px = Fin.ofNat 64 ((s.reg x).toNat % 64 + c) ∧ py = Fin.ofNat 32 ((s.reg y).toNat % 32 + r))) →
        cellAt t.disp px py = cellAt s.disp px py) ∧
      (t.reg 15 = 0 ∨ t.reg 15 = 1) ∧
      (t.reg 15 = 1 ↔ ∃ r c, r < n ∧ c < 8 ∧ (s.readByte (s.i.toNat + r)).getLsbD (7 - c) = true ∧
        cellAt s.disp (Fin.ofNat 64 ((s.reg x).toNat % 64 + c)) (Fin.ofNat 32 ((s.reg y).toNat % 32 + r)) = true))

/-- R99 (a), (b): drawing the same sprite twice at the same place restores the display; VF after the second draw is 1
exactly when some 1-bit of the sprite landed on a cell that was off before the first. -/
def Obligations.RedrawRestoresTheDisplay : Prop :=
  ∀ (x y : RegIdx) (n : Nat) (s : State), n ≤ 15 → x ≠ 15 → y ≠ 15 → (n = 0 ∨ s.i.toNat + n ≤ 0x1000) →
    ∃ t u, exec (.drw x y n) s = .next t ∧ exec (.drw x y n) t = .next u ∧ u.disp = s.disp ∧
      (u.reg 15 = 1 ↔ ∃ r c, r < n ∧ c < 8 ∧ (s.readByte (s.i.toNat + r)).getLsbD (7 - c) = true ∧
        cellAt s.disp (Fin.ofNat 64 ((s.reg x).toNat % 64 + c)) (Fin.ofNat 32 ((s.reg y).toNat % 32 + r)) = false)

/-! ## Keyboard and timer instructions (43_keyboard_timers.md) -/

/-- SKP and SKNP (R100, R101). -/
def Obligations.KeySkips : Prop :=
  ∀ (x : RegIdx) (s : State),
    Encodes (wordXKK 0xE x 0x9E) (.skp x) ∧ Encodes (wordXKK 0xE x 0xA1) (.sknp x) ∧
    ((s.reg x).toNat > 15 →
      exec (.skp x) s = .next { s with fault := some ⟨.keyIndexFault (s.reg x), s.pc - 2⟩ } ∧
      exec (.sknp x) s = .next { s with fault := some ⟨.keyIndexFault (s.reg x), s.pc - 2⟩ }) ∧
    (∀ h : (s.reg x).toNat < 16,
      exec (.skp x) s = .next { s with pc := if s.keys[(s.reg x).toNat] = true then s.pc + 2 else s.pc } ∧
      exec (.sknp x) s = .next { s with pc := if s.keys[(s.reg x).toNat] = false then s.pc + 2 else s.pc })

/-- LD Vx, K (R102): the busy-wait, and the lowest pressed key. -/
def Obligations.KeyWait : Prop :=
  ∀ (x : RegIdx) (s : State), Encodes (wordXKK 0xF x 0x0A) (.ldVxK x) ∧
    ((∀ k : Fin 16, s.keys[k] = false) → exec (.ldVxK x) s = .next { s with pc := s.pc - 2 }) ∧
    (∀ k : Fin 16, s.keys[k] = true → (∀ j : Fin 16, j < k → s.keys[j] = false) →
      ∃ t, exec (.ldVxK x) s = .next t ∧ t = { s with regs := t.regs } ∧
        (t.reg x).toNat = k.val ∧ ∀ j, j ≠ x → t.reg j = s.reg j)

/-- R102, R153: with no key ever pressed the core runs FX0A for ever, a hang and not a halt: every number of cycles
is fault-free. -/
def Obligations.KeyWaitNeverHalts : Prop :=
  ∀ (n : Nat) (x : RegIdx) (s : State), s.Live → fetchWord s.pc s = .ok (wordXKK 0xF x 0x0A) →
    (∀ k : Fin 16, s.keys[k] = false) → SafeRun n s

/-- LD Vx, DT; LD DT, Vx; LD ST, Vx (R103, R104, R105): the accumulators are not changed. -/
def Obligations.TimerRegisterMoves : Prop :=
  ∀ (x : RegIdx) (s : State),
    Encodes (wordXKK 0xF x 0x07) (.ldVxDt x) ∧ Encodes (wordXKK 0xF x 0x15) (.ldDtVx x) ∧
    Encodes (wordXKK 0xF x 0x18) (.ldStVx x) ∧
    (∃ t, exec (.ldVxDt x) s = .next t ∧ t = { s with regs := t.regs } ∧ t.reg x = s.dt ∧
      ∀ k, k ≠ x → t.reg k = s.reg k) ∧
    exec (.ldDtVx x) s = .next { s with dt := s.reg x } ∧
    exec (.ldStVx x) s = .next { s with st := s.reg x }

/-! ## Address register and memory transfers (44_index_memory.md) -/

/-- LD I, ADD I, LD F (R106, R107, R108): 16-bit wrap and no flag for ADD I, the whole register times 5 for LD F. -/
def Obligations.AddressRegisterWrites : Prop :=
  ∀ (nnn : Addr12) (x : RegIdx) (s : State),
    Encodes (wordNNN 0xA nnn) (.ldI nnn) ∧ Encodes (wordXKK 0xF x 0x1E) (.addI x) ∧
    Encodes (wordXKK 0xF x 0x29) (.ldF x) ∧
    exec (.ldI nnn) s = .next { s with i := BitVec.ofNat 16 nnn.toNat } ∧
    (∃ t, exec (.addI x) s = .next t ∧ t = { s with i := t.i } ∧
      t.i.toNat = (s.i.toNat + (s.reg x).toNat) % 65536) ∧
    (∃ t, exec (.ldF x) s = .next t ∧ t = { s with i := t.i } ∧ t.i.toNat = (s.reg x).toNat * 5)

/-- LD B (R109): the faults; else hundreds, tens and units at I, I+1, I+2, and every other byte as before. -/
def Obligations.DecimalDigitsAreStored : Prop :=
  ∀ (x : RegIdx) (s : State), Memory.wf s.cfg s.mem →
    Encodes (wordXKK 0xF x 0x33) (.ldB x) ∧
    (s.base < 0x200 → exec (.ldB x) s = .next { s with fault := some ⟨.reservedWriteFault s.base, s.pc - 2⟩ }) ∧
    (s.base + 2 > 0xFFF →
      exec (.ldB x) s = .next { s with fault := some ⟨.addressFault (max s.base 0x1000), s.pc - 2⟩ }) ∧
    (0x200 ≤ s.base → s.base + 2 ≤ 0xFFF → ∃ t, exec (.ldB x) s = .next t ∧ t = { s with mem := t.mem } ∧
      (t.readByte s.base).toNat = (s.reg x).toNat / 100 ∧
      (t.readByte (s.base + 1)).toNat = (s.reg x).toNat / 10 % 10 ∧
      (t.readByte (s.base + 2)).toNat = (s.reg x).toNat % 10 ∧
      ∀ a, a < s.base ∨ s.base + 3 ≤ a → t.readByte a = s.readByte a)

/-- LD [I], Vx (R110): the faults; else V0..VX at I..I+X, every other byte as before, I moved only under
QUIRK_MEM_INCREMENT_I. -/
def Obligations.RegistersAreStored : Prop :=
  ∀ (x : RegIdx) (s : State), Memory.wf s.cfg s.mem →
    Encodes (wordXKK 0xF x 0x55) (.ldMemVx x) ∧
    (s.base < 0x200 → exec (.ldMemVx x) s = .next { s with fault := some ⟨.reservedWriteFault s.base, s.pc - 2⟩ }) ∧
    (0x200 ≤ s.base → s.base + x.val > 0xFFF →
      exec (.ldMemVx x) s = .next { s with fault := some ⟨.addressFault (max s.base 0x1000), s.pc - 2⟩ }) ∧
    (0x200 ≤ s.base → s.base + x.val ≤ 0xFFF → ∃ t, exec (.ldMemVx x) s = .next t ∧
      t = { s with mem := t.mem, i := t.i } ∧
      (s.cfg.quirkMemIncrementI = false → t.i = s.i) ∧
      (s.cfg.quirkMemIncrementI = true → t.i.toNat = (s.i.toNat + x.val + 1) % 65536) ∧
      (∀ k : RegIdx, k.val ≤ x.val → t.readByte (s.base + k.val) = s.reg k) ∧
      ∀ a, a < s.base ∨ s.base + x.val < a → t.readByte a = s.readByte a)

/-- LD Vx, [I] (R111): the fault; else V0..VX from I..I+X, every other register as before, I moved only under
QUIRK_MEM_INCREMENT_I. -/
def Obligations.RegistersAreLoaded : Prop :=
  ∀ (x : RegIdx) (s : State),
    Encodes (wordXKK 0xF x 0x65) (.ldVxMem x) ∧
    (s.base + x.val > 0xFFF →
      exec (.ldVxMem x) s = .next { s with fault := some ⟨.addressFault (max s.base 0x1000), s.pc - 2⟩ }) ∧
    (s.base + x.val ≤ 0xFFF → ∃ t, exec (.ldVxMem x) s = .next t ∧ t = { s with regs := t.regs, i := t.i } ∧
      (s.cfg.quirkMemIncrementI = false → t.i = s.i) ∧
      (s.cfg.quirkMemIncrementI = true → t.i.toNat = (s.i.toNat + x.val + 1) % 65536) ∧
      (∀ k : RegIdx, k.val ≤ x.val → t.reg k = s.readByte (s.base + k.val)) ∧
      ∀ k : RegIdx, x.val < k.val → t.reg k = s.reg k)

/-- R57, R152: a byte FX55 or FX33 stores is what every fetch of the next cycle reads, as the high or the low byte of
the word; words inside the block, words that straddle either edge of it, and words outside it. -/
def Obligations.StoresAreSeenByTheFetch : Prop :=
  ∀ (x : RegIdx) (s : State), Memory.wf s.cfg s.mem →
    (0x200 ≤ s.base → s.base + x.val ≤ 0xFFF → ∃ t, exec (.ldMemVx x) s = .next t ∧
      FetchesStored s t s.base (x.val + 1) fun k => (s.reg (Fin.ofNat 16 k)).toNat) ∧
    (0x200 ≤ s.base → s.base + 2 ≤ 0xFFF → ∃ t, exec (.ldB x) s = .next t ∧
      FetchesStored s t s.base 3 fun k => (s.reg x).toNat / 10 ^ (2 - k) % 10)

/-! ## Construction, load and ports (70_reset_and_hazards.md, 60_exceptions.md) -/

/-- R39, R138: the state of every new core, field by field; and until a load succeeds every cycle is a no-op, since
`RUNNABLE` stays 0 and a cycle with `RUNNABLE` = 0 changes nothing. -/
def Obligations.ConstructedCoreState : Prop :=
  ∀ (cfg : Config) (s : State), construct cfg = some s →
    s.cfg = cfg ∧ s.fault = none ∧ s.runnable = false ∧ s.pc.toNat = 0x200 ∧ s.i = 0 ∧ s.sp = 0 ∧ s.stack = [] ∧
    s.dt = 0 ∧ s.st = 0 ∧ s.accD = 0 ∧ s.accS = 0 ∧ s.debugLevel = 0 ∧ s.rngMode = .fresh ∧
    (∀ x, s.reg x = 0) ∧ (∀ k : Fin 16, s.keys[k] = false) ∧ (∀ x y, cellAt s.disp x y = false) ∧
    (∀ (a : Nat) (h : a < 80), s.readByte a = cfg.font[a]) ∧ (∀ a, 80 ≤ a → s.readByte a = 0) ∧
    step s = .next s ∧
    (∀ t : State, t.runnable = false →
      step t = .next t ∧ (∀ k p, (updateKey k p t).2.runnable = false) ∧ (∀ l, (setDebugLevel l t).runnable = false) ∧
      ∀ input, (load input t).1 ≠ .ok → (load input t).2.runnable = false)

/-- The model's reset is the constructed core of the default configuration.  That reset is construction is the model's
(log 5, DEDUCED: the spec's own "reset" is a load); the OPEN parameters of that configuration are opaque (logs 2, 3);
the values are those of R39 and R138. -/
def Obligations.ResetIsTheConstructedCore : Prop :=
  State.reset.fault = none ∧ State.reset.runnable = false ∧ State.reset.pc.toNat = 0x200 ∧ State.reset.i = 0 ∧
  State.reset.sp = 0 ∧ State.reset.dt = 0 ∧ State.reset.st = 0 ∧ State.reset.accD = 0 ∧ State.reset.accS = 0 ∧
  State.reset.debugLevel = 0 ∧ State.reset.rngMode = .fresh ∧
  (∀ x, State.reset.reg x = 0) ∧ (∀ k : Fin 16, State.reset.keys[k] = false) ∧
  (∀ x y, cellAt State.reset.disp x y = false) ∧
  (∀ (a : Nat) (h : a < 80), State.reset.readByte a = defaultFont[a]) ∧
  (∀ a, 80 ≤ a → State.reset.readByte a = 0) ∧
  construct Config.initial = some State.reset ∧
  step State.reset = .next State.reset

/-- R139, R140, R141, R142: the answers of the load port, and that a failed load changes nothing. -/
def Obligations.LoadAnswers : Prop :=
  ∀ s : State,
    load .unreadable s = (.ioError, s) ∧
    (∀ rom : List Byte, 3584 < rom.length → load (.bytes rom) s = (.romTooLarge, s)) ∧
    (∀ rom : List Byte, rom.length ≤ 3584 → (load (.bytes rom) s).1 = .ok)

/-- R38, R143, R145: every piece of state after a successful load. -/
def Obligations.LoadInstallsAFreshState : Prop :=
  ∀ (rom : List Byte) (s t : State), load (.bytes rom) s = (.ok, t) →
    (∀ x, t.reg x = 0) ∧ t.i = 0 ∧ t.pc.toNat = 0x200 ∧ t.sp = 0 ∧ t.stack = [] ∧ t.dt = 0 ∧ t.st = 0 ∧
    t.accD = 0 ∧ t.accS = 0 ∧
    (∀ (a : Nat) (h : a < 80), t.readByte a = s.cfg.font[a]) ∧
    (∀ a, 80 ≤ a → a < 0x200 → t.readByte a = 0) ∧
    (∀ (k : Nat) (h : k < rom.length), t.readByte (0x200 + k) = rom[k]) ∧
    (∀ a, 0x200 + rom.length ≤ a → t.readByte a = 0) ∧
    (∀ x y, cellAt t.disp x y = false) ∧ (∀ k : Fin 16, t.keys[k] = false) ∧
    t.runnable = true ∧ t.fault = none ∧ t.debugLevel = s.debugLevel ∧ t.rngMode = s.rngMode

/-- R149: the first cycle after loading an empty ROM halts with UnknownOpcode(0x0000) at 0x200, `PC` at 0x202, and the
step port says so. -/
def Obligations.EmptyRomHaltsAtItsFirstWord : Prop :=
  ∀ s : State, ∃ t u, load (.bytes []) s = (.ok, t) ∧
    executeCycle t = .next (.halted ⟨.unknownOpcode 0, 0x200⟩, u) ∧
    u = { timerTick t with pc := 0x202, fault := some ⟨.unknownOpcode 0, 0x200⟩ } ∧
    executeCycle u = .next (.halted ⟨.unknownOpcode 0, 0x200⟩, u)

/-- R144: a load forgets what was loaded before it, whatever was loaded. -/
def Obligations.LoadsAreIdempotent : Prop :=
  ∀ (a b : List Byte) (s : State), a.length ≤ 3584 → b.length ≤ 3584 →
    load (.bytes b) (load (.bytes a) s).2 = load (.bytes b) s

/-- R130: what the step port returns. -/
def Obligations.StepPortReports : Prop :=
  ∀ s : State,
    (s.runnable = false → executeCycle s = .next (.notRunnable, s)) ∧
    (∀ r, s.runnable = true → s.fault = some r → executeCycle s = .next (.halted r, s)) ∧
    (s.Live → ∃ t, step s = .next t ∧
      (t.fault = none → executeCycle s = .next (.ok, t)) ∧
      ∀ r, t.fault = some r → executeCycle s = .next (.halted r, t))

/-- R127: the keyboard port sets one flag, or is refused and changes nothing. -/
def Obligations.KeyboardPort : Prop :=
  ∀ (k : Nat) (p : Bool) (s : State),
    (16 ≤ k → updateKey k p s = (.invalid, s)) ∧
    (k < 16 → ∃ t, updateKey k p s = (.ok, t) ∧ t = { s with keys := t.keys } ∧
      ∀ j : Fin 16, t.keys[j] = if j.val = k then p else s.keys[j])

/-- R128: the render port writes four bytes for every cell, row-major, and refuses a buffer of another size. -/
def Obligations.RenderPort : Prop :=
  ∀ (buffer : List Byte) (s : State),
    (buffer.length ≠ 8192 → renderInto buffer s = (.invalid, buffer)) ∧
    (buffer.length = 8192 → ∃ out, renderInto buffer s = (.ok, out) ∧ out.length = 8192 ∧
      ∀ (x : Fin 64) (y : Fin 32) (c : Rgba),
        c = (if cellAt s.disp x y = true then s.cfg.onColor else s.cfg.offColor) →
        out[4 * (64 * y.val + x.val)]? = some c.r ∧ out[4 * (64 * y.val + x.val) + 1]? = some c.g ∧
        out[4 * (64 * y.val + x.val) + 2]? = some c.b ∧ out[4 * (64 * y.val + x.val) + 3]? = some c.a)
end

