-- ==== Sys2Proof/Laws/Decode.lean ====
section
/-! SUPPORT. The laws of the decoder and the encoder: decoding is total and rejects by name, what a mask keeps of a
word and which number an encoding is, so that a template test is a fact about numbers (spec R62, R64, R67, R74). -/

namespace Sys2Proof

/-- The decoder answers an instruction or the rejection of the word itself. -/
theorem decode_cases (op : Word) : decode op = .error (.unknownOpcode op) ∨ ∃ i, decode op = .ok i := by
  unfold decode
  split
  · exact .inr ⟨_, rfl⟩
  · exact .inl rfl

/-- A word is its high byte and its low byte, big-endian (R44). -/
theorem wordOfBytes_high_low (op : Word) : wordOfBytes (highByte op) (lowByte op) = op := by
  refine @BitVec.eq_of_getLsbD_eq (8 + 8) _ _ fun i hi => ?_
  simp only [wordOfBytes, highByte, lowByte, BitVec.getLsbD_append, BitVec.getLsbD_extractLsb']
  interval_cases i <;> simp

/-- The number of a big-endian word (R44, R52). -/
theorem toNat_wordOfBytes (hi lo : Byte) : (wordOfBytes hi lo).toNat = hi.toNat * 0x100 + lo.toNat := by
  rw [wordOfBytes, BitVec.toNat_append, ← Nat.shiftLeft_add_eq_or_of_lt (by omega), Nat.shiftLeft_eq]

/-! ## What a mask keeps -/

/-- The mask 0xF000 keeps the group nibble. -/
theorem toNat_and_F000 (op : Word) : (op &&& 0xF000).toNat = op.toNat / 0x1000 * 0x1000 := by
  have h : op &&& 0xF000 = (op.extractLsb' 12 4 ++ 0#12 : BitVec (4 + 12)) := by
    refine @BitVec.eq_of_getLsbD_eq (4 + 12) _ _ fun i hi => ?_
    simp only [BitVec.getLsbD_append, BitVec.getLsbD_extractLsb', BitVec.getLsbD_and]
    interval_cases i <;> simp
  have hop := op.isLt
  rw [h, BitVec.toNat_append, ← Nat.shiftLeft_add_eq_or_of_lt (by simp)]
  simp only [BitVec.extractLsb'_toNat, Nat.shiftLeft_eq, Nat.shiftRight_eq_div_pow, BitVec.toNat_ofNat]
  omega

/-- The mask 0xF00F keeps the group nibble and the final nibble. -/
theorem toNat_and_F00F (op : Word) : (op &&& 0xF00F).toNat = op.toNat / 0x1000 * 0x1000 + op.toNat % 0x10 := by
  have h : op &&& 0xF00F = (op.extractLsb' 12 4 ++ (op.extractLsb' 0 4).setWidth 12 : BitVec (4 + 12)) := by
    refine @BitVec.eq_of_getLsbD_eq (4 + 12) _ _ fun i hi => ?_
    simp only [BitVec.getLsbD_append, BitVec.getLsbD_extractLsb', BitVec.getLsbD_and, BitVec.getLsbD_setWidth]
    interval_cases i <;> simp
  have hop := op.isLt
  rw [h, BitVec.toNat_append, ← Nat.shiftLeft_add_eq_or_of_lt (by omega)]
  simp only [BitVec.extractLsb'_toNat, Nat.shiftLeft_eq, Nat.shiftRight_eq_div_pow, BitVec.toNat_setWidth]
  omega

/-- The mask 0xF0FF keeps the group nibble and the low byte. -/
theorem toNat_and_F0FF (op : Word) : (op &&& 0xF0FF).toNat = op.toNat / 0x1000 * 0x1000 + op.toNat % 0x100 := by
  have h : op &&& 0xF0FF = (op.extractLsb' 12 4 ++ (op.extractLsb' 0 8).setWidth 12 : BitVec (4 + 12)) := by
    refine @BitVec.eq_of_getLsbD_eq (4 + 12) _ _ fun i hi => ?_
    simp only [BitVec.getLsbD_append, BitVec.getLsbD_extractLsb', BitVec.getLsbD_and, BitVec.getLsbD_setWidth]
    interval_cases i <;> simp
  have hop := op.isLt
  rw [h, BitVec.toNat_append, ← Nat.shiftLeft_add_eq_or_of_lt (by omega)]
  simp only [BitVec.extractLsb'_toNat, Nat.shiftLeft_eq, Nat.shiftRight_eq_div_pow, BitVec.toNat_setWidth]
  omega

/-- The mask 0xFFFF keeps the word. -/
theorem toNat_and_FFFF (op : Word) : (op &&& 0xFFFF).toNat = op.toNat := by
  have : op &&& 0xFFFF = op := BitVec.and_allOnes
  rw [this]

/-- A template test is an equation of numbers. -/
theorem matches_iff (row : OpcodeRow) (op : Word) :
    row.matches op = true ↔ (op &&& row.mask).toNat = row.pattern.toNat := by
  rw [OpcodeRow.matches, beq_iff_eq, BitVec.toNat_inj]

/-! ## Which number a field is -/

theorem val_fieldX (op : Word) : (fieldX op).val = op.toNat / 0x100 % 0x10 := by
  simp [fieldX, BitVec.extractLsb'_toNat, Nat.shiftRight_eq_div_pow]

theorem val_fieldY (op : Word) : (fieldY op).val = op.toNat / 0x10 % 0x10 := by
  simp [fieldY, BitVec.extractLsb'_toNat, Nat.shiftRight_eq_div_pow]

theorem toNat_fieldKK (op : Word) : (fieldKK op).toNat = op.toNat % 0x100 := by
  simp [fieldKK, BitVec.extractLsb'_toNat]

theorem toNat_fieldNNN (op : Word) : (fieldNNN op).toNat = op.toNat % 0x1000 := by
  simp [fieldNNN, BitVec.extractLsb'_toNat]

theorem fieldN_eq (op : Word) : fieldN op = op.toNat % 0x10 := by
  simp [fieldN, BitVec.extractLsb'_toNat]

/-! ## Which number an encoding is (R74) -/

theorem toNat_packXYN {g : Nat} (x y : RegIdx) (n : Nat) (hg : g < 16) :
    (packXYN g x y n).toNat = g * 0x1000 + x.val * 0x100 + y.val * 0x10 + n % 16 := by
  have hx := x.isLt
  have hy := y.isLt
  unfold packXYN nibble
  rw [BitVec.toNat_append, BitVec.toNat_append, BitVec.toNat_append, ← Nat.shiftLeft_add_eq_or_of_lt (by omega),
    ← Nat.shiftLeft_add_eq_or_of_lt (by omega), ← Nat.shiftLeft_add_eq_or_of_lt (by omega)]
  simp only [Nat.shiftLeft_eq, BitVec.toNat_ofNat]
  omega

theorem toNat_packXKK {g : Nat} (x : RegIdx) (kk : Byte) (hg : g < 16) :
    (packXKK g x kk).toNat = g * 0x1000 + x.val * 0x100 + kk.toNat := by
  have hx := x.isLt
  unfold packXKK nibble
  rw [BitVec.toNat_append, BitVec.toNat_append, ← Nat.shiftLeft_add_eq_or_of_lt (by omega),
    ← Nat.shiftLeft_add_eq_or_of_lt (by omega)]
  simp only [Nat.shiftLeft_eq, BitVec.toNat_ofNat]
  omega

theorem toNat_packNNN {g : Nat} (nnn : Addr12) (hg : g < 16) :
    (packNNN g nnn).toNat = g * 0x1000 + nnn.toNat := by
  unfold packNNN nibble
  rw [BitVec.toNat_append, ← Nat.shiftLeft_add_eq_or_of_lt (by omega)]
  simp only [Nat.shiftLeft_eq, BitVec.toNat_ofNat]
  omega

/-! ## Packing a word's own fields -/

/-- A word is packed from its own group nibble and address. -/
theorem packNNN_fields {op : Word} {g : Nat} (h : op.toNat / 0x1000 = g) : packNNN g (fieldNNN op) = op := by
  subst h
  have hg : op.toNat / 0x1000 < 16 := by omega
  apply BitVec.eq_of_toNat_eq
  rw [toNat_packNNN _ hg, toNat_fieldNNN]
  clear hg
  omega

/-- A word is packed from its own group nibble, register field and byte. -/
theorem packXKK_fields {op : Word} {g : Nat} {kk : Byte} (h : op.toNat / 0x1000 = g) (hk : op.toNat % 0x100 = kk.toNat) :
    packXKK g (fieldX op) kk = op := by
  subst h
  have hg : op.toNat / 0x1000 < 16 := by omega
  apply BitVec.eq_of_toNat_eq
  rw [toNat_packXKK _ _ hg, val_fieldX, ← hk]
  clear hg hk
  omega

/-- A word is packed from its own group nibble, register fields and final nibble. -/
theorem packXYN_fields {op : Word} {g n : Nat} (h : op.toNat / 0x1000 = g) (hn : op.toNat % 0x10 = n % 0x10) :
    packXYN g (fieldX op) (fieldY op) n = op := by
  subst h
  have hg : op.toNat / 0x1000 < 16 := by omega
  apply BitVec.eq_of_toNat_eq
  rw [toNat_packXYN _ _ _ hg, val_fieldX, val_fieldY, ← hn]
  clear hg hn
  omega

end Sys2Proof
end

