-- ==== Sys2Proof/Laws/State.lean ====
section
/-! SUPPORT. One lemma per field per update of State, so that no proof unfolds a record update. -/

namespace Sys2Proof.Machine

/-! ### A register write -/

@[simp] theorem setReg_regs (s : State) (x : RegIdx) (v : Byte) : (s.setReg x v).regs = s.regs.set x v := rfl
@[simp] theorem setReg_i (s : State) (x : RegIdx) (v : Byte) : (s.setReg x v).i = s.i := rfl
@[simp] theorem setReg_pc (s : State) (x : RegIdx) (v : Byte) : (s.setReg x v).pc = s.pc := rfl
@[simp] theorem setReg_stack (s : State) (x : RegIdx) (v : Byte) : (s.setReg x v).stack = s.stack := rfl
@[simp] theorem setReg_dt (s : State) (x : RegIdx) (v : Byte) : (s.setReg x v).dt = s.dt := rfl
@[simp] theorem setReg_st (s : State) (x : RegIdx) (v : Byte) : (s.setReg x v).st = s.st := rfl
@[simp] theorem setReg_accD (s : State) (x : RegIdx) (v : Byte) : (s.setReg x v).accD = s.accD := rfl
@[simp] theorem setReg_accS (s : State) (x : RegIdx) (v : Byte) : (s.setReg x v).accS = s.accS := rfl
@[simp] theorem setReg_mem (s : State) (x : RegIdx) (v : Byte) : (s.setReg x v).mem = s.mem := rfl
@[simp] theorem setReg_disp (s : State) (x : RegIdx) (v : Byte) : (s.setReg x v).disp = s.disp := rfl
@[simp] theorem setReg_keys (s : State) (x : RegIdx) (v : Byte) : (s.setReg x v).keys = s.keys := rfl
@[simp] theorem setReg_runnable (s : State) (x : RegIdx) (v : Byte) : (s.setReg x v).runnable = s.runnable := rfl
@[simp] theorem setReg_fault (s : State) (x : RegIdx) (v : Byte) : (s.setReg x v).fault = s.fault := rfl
@[simp] theorem setReg_debugLevel (s : State) (x : RegIdx) (v : Byte) : (s.setReg x v).debugLevel = s.debugLevel := rfl
@[simp] theorem setReg_rngMode (s : State) (x : RegIdx) (v : Byte) : (s.setReg x v).rngMode = s.rngMode := rfl
@[simp] theorem setReg_drawIndex (s : State) (x : RegIdx) (v : Byte) : (s.setReg x v).drawIndex = s.drawIndex := rfl
@[simp] theorem setReg_cfg (s : State) (x : RegIdx) (v : Byte) : (s.setReg x v).cfg = s.cfg := rfl

/-! ### A result and the flag -/

@[simp] theorem setResultAndFlag_regs (s : State) (x : RegIdx) (v f : Byte) : (s.setResultAndFlag x v f).regs = (s.regs.set x v).set vf f := rfl
@[simp] theorem setResultAndFlag_i (s : State) (x : RegIdx) (v f : Byte) : (s.setResultAndFlag x v f).i = s.i := rfl
@[simp] theorem setResultAndFlag_pc (s : State) (x : RegIdx) (v f : Byte) : (s.setResultAndFlag x v f).pc = s.pc := rfl
@[simp] theorem setResultAndFlag_stack (s : State) (x : RegIdx) (v f : Byte) : (s.setResultAndFlag x v f).stack = s.stack := rfl
@[simp] theorem setResultAndFlag_dt (s : State) (x : RegIdx) (v f : Byte) : (s.setResultAndFlag x v f).dt = s.dt := rfl
@[simp] theorem setResultAndFlag_st (s : State) (x : RegIdx) (v f : Byte) : (s.setResultAndFlag x v f).st = s.st := rfl
@[simp] theorem setResultAndFlag_accD (s : State) (x : RegIdx) (v f : Byte) : (s.setResultAndFlag x v f).accD = s.accD := rfl
@[simp] theorem setResultAndFlag_accS (s : State) (x : RegIdx) (v f : Byte) : (s.setResultAndFlag x v f).accS = s.accS := rfl
@[simp] theorem setResultAndFlag_mem (s : State) (x : RegIdx) (v f : Byte) : (s.setResultAndFlag x v f).mem = s.mem := rfl
@[simp] theorem setResultAndFlag_disp (s : State) (x : RegIdx) (v f : Byte) : (s.setResultAndFlag x v f).disp = s.disp := rfl
@[simp] theorem setResultAndFlag_keys (s : State) (x : RegIdx) (v f : Byte) : (s.setResultAndFlag x v f).keys = s.keys := rfl
@[simp] theorem setResultAndFlag_runnable (s : State) (x : RegIdx) (v f : Byte) : (s.setResultAndFlag x v f).runnable = s.runnable := rfl
@[simp] theorem setResultAndFlag_fault (s : State) (x : RegIdx) (v f : Byte) : (s.setResultAndFlag x v f).fault = s.fault := rfl
@[simp] theorem setResultAndFlag_debugLevel (s : State) (x : RegIdx) (v f : Byte) : (s.setResultAndFlag x v f).debugLevel = s.debugLevel := rfl
@[simp] theorem setResultAndFlag_rngMode (s : State) (x : RegIdx) (v f : Byte) : (s.setResultAndFlag x v f).rngMode = s.rngMode := rfl
@[simp] theorem setResultAndFlag_drawIndex (s : State) (x : RegIdx) (v f : Byte) : (s.setResultAndFlag x v f).drawIndex = s.drawIndex := rfl
@[simp] theorem setResultAndFlag_cfg (s : State) (x : RegIdx) (v f : Byte) : (s.setResultAndFlag x v f).cfg = s.cfg := rfl

/-! ### A block of registers loaded -/

@[simp] theorem loadRegs_regs (s : State) (bs : List Byte) : (s.loadRegs bs).regs = Vector.ofFn fun k : Fin 16 => (bs[k.val]?).getD s.regs[k] := rfl
@[simp] theorem loadRegs_i (s : State) (bs : List Byte) : (s.loadRegs bs).i = s.i := rfl
@[simp] theorem loadRegs_pc (s : State) (bs : List Byte) : (s.loadRegs bs).pc = s.pc := rfl
@[simp] theorem loadRegs_stack (s : State) (bs : List Byte) : (s.loadRegs bs).stack = s.stack := rfl
@[simp] theorem loadRegs_dt (s : State) (bs : List Byte) : (s.loadRegs bs).dt = s.dt := rfl
@[simp] theorem loadRegs_st (s : State) (bs : List Byte) : (s.loadRegs bs).st = s.st := rfl
@[simp] theorem loadRegs_accD (s : State) (bs : List Byte) : (s.loadRegs bs).accD = s.accD := rfl
@[simp] theorem loadRegs_accS (s : State) (bs : List Byte) : (s.loadRegs bs).accS = s.accS := rfl
@[simp] theorem loadRegs_mem (s : State) (bs : List Byte) : (s.loadRegs bs).mem = s.mem := rfl
@[simp] theorem loadRegs_disp (s : State) (bs : List Byte) : (s.loadRegs bs).disp = s.disp := rfl
@[simp] theorem loadRegs_keys (s : State) (bs : List Byte) : (s.loadRegs bs).keys = s.keys := rfl
@[simp] theorem loadRegs_runnable (s : State) (bs : List Byte) : (s.loadRegs bs).runnable = s.runnable := rfl
@[simp] theorem loadRegs_fault (s : State) (bs : List Byte) : (s.loadRegs bs).fault = s.fault := rfl
@[simp] theorem loadRegs_debugLevel (s : State) (bs : List Byte) : (s.loadRegs bs).debugLevel = s.debugLevel := rfl
@[simp] theorem loadRegs_rngMode (s : State) (bs : List Byte) : (s.loadRegs bs).rngMode = s.rngMode := rfl
@[simp] theorem loadRegs_drawIndex (s : State) (bs : List Byte) : (s.loadRegs bs).drawIndex = s.drawIndex := rfl
@[simp] theorem loadRegs_cfg (s : State) (bs : List Byte) : (s.loadRegs bs).cfg = s.cfg := rfl

/-! ### The address register -/

@[simp] theorem setI_regs (s : State) (v : Word) : (s.setI v).regs = s.regs := rfl
@[simp] theorem setI_i (s : State) (v : Word) : (s.setI v).i = v := rfl
@[simp] theorem setI_pc (s : State) (v : Word) : (s.setI v).pc = s.pc := rfl
@[simp] theorem setI_stack (s : State) (v : Word) : (s.setI v).stack = s.stack := rfl
@[simp] theorem setI_dt (s : State) (v : Word) : (s.setI v).dt = s.dt := rfl
@[simp] theorem setI_st (s : State) (v : Word) : (s.setI v).st = s.st := rfl
@[simp] theorem setI_accD (s : State) (v : Word) : (s.setI v).accD = s.accD := rfl
@[simp] theorem setI_accS (s : State) (v : Word) : (s.setI v).accS = s.accS := rfl
@[simp] theorem setI_mem (s : State) (v : Word) : (s.setI v).mem = s.mem := rfl
@[simp] theorem setI_disp (s : State) (v : Word) : (s.setI v).disp = s.disp := rfl
@[simp] theorem setI_keys (s : State) (v : Word) : (s.setI v).keys = s.keys := rfl
@[simp] theorem setI_runnable (s : State) (v : Word) : (s.setI v).runnable = s.runnable := rfl
@[simp] theorem setI_fault (s : State) (v : Word) : (s.setI v).fault = s.fault := rfl
@[simp] theorem setI_debugLevel (s : State) (v : Word) : (s.setI v).debugLevel = s.debugLevel := rfl
@[simp] theorem setI_rngMode (s : State) (v : Word) : (s.setI v).rngMode = s.rngMode := rfl
@[simp] theorem setI_drawIndex (s : State) (v : Word) : (s.setI v).drawIndex = s.drawIndex := rfl
@[simp] theorem setI_cfg (s : State) (v : Word) : (s.setI v).cfg = s.cfg := rfl

/-! ### The program counter -/

@[simp] theorem setPc_regs (s : State) (v : Word) : (s.setPc v).regs = s.regs := rfl
@[simp] theorem setPc_i (s : State) (v : Word) : (s.setPc v).i = s.i := rfl
@[simp] theorem setPc_pc (s : State) (v : Word) : (s.setPc v).pc = v := rfl
@[simp] theorem setPc_stack (s : State) (v : Word) : (s.setPc v).stack = s.stack := rfl
@[simp] theorem setPc_dt (s : State) (v : Word) : (s.setPc v).dt = s.dt := rfl
@[simp] theorem setPc_st (s : State) (v : Word) : (s.setPc v).st = s.st := rfl
@[simp] theorem setPc_accD (s : State) (v : Word) : (s.setPc v).accD = s.accD := rfl
@[simp] theorem setPc_accS (s : State) (v : Word) : (s.setPc v).accS = s.accS := rfl
@[simp] theorem setPc_mem (s : State) (v : Word) : (s.setPc v).mem = s.mem := rfl
@[simp] theorem setPc_disp (s : State) (v : Word) : (s.setPc v).disp = s.disp := rfl
@[simp] theorem setPc_keys (s : State) (v : Word) : (s.setPc v).keys = s.keys := rfl
@[simp] theorem setPc_runnable (s : State) (v : Word) : (s.setPc v).runnable = s.runnable := rfl
@[simp] theorem setPc_fault (s : State) (v : Word) : (s.setPc v).fault = s.fault := rfl
@[simp] theorem setPc_debugLevel (s : State) (v : Word) : (s.setPc v).debugLevel = s.debugLevel := rfl
@[simp] theorem setPc_rngMode (s : State) (v : Word) : (s.setPc v).rngMode = s.rngMode := rfl
@[simp] theorem setPc_drawIndex (s : State) (v : Word) : (s.setPc v).drawIndex = s.drawIndex := rfl
@[simp] theorem setPc_cfg (s : State) (v : Word) : (s.setPc v).cfg = s.cfg := rfl

/-! ### The advance -/

@[simp] theorem advancePc_regs (s : State) : (s.advancePc).regs = s.regs := rfl
@[simp] theorem advancePc_i (s : State) : (s.advancePc).i = s.i := rfl
@[simp] theorem advancePc_pc (s : State) : (s.advancePc).pc = s.pc + 2 := rfl
@[simp] theorem advancePc_stack (s : State) : (s.advancePc).stack = s.stack := rfl
@[simp] theorem advancePc_dt (s : State) : (s.advancePc).dt = s.dt := rfl
@[simp] theorem advancePc_st (s : State) : (s.advancePc).st = s.st := rfl
@[simp] theorem advancePc_accD (s : State) : (s.advancePc).accD = s.accD := rfl
@[simp] theorem advancePc_accS (s : State) : (s.advancePc).accS = s.accS := rfl
@[simp] theorem advancePc_mem (s : State) : (s.advancePc).mem = s.mem := rfl
@[simp] theorem advancePc_disp (s : State) : (s.advancePc).disp = s.disp := rfl
@[simp] theorem advancePc_keys (s : State) : (s.advancePc).keys = s.keys := rfl
@[simp] theorem advancePc_runnable (s : State) : (s.advancePc).runnable = s.runnable := rfl
@[simp] theorem advancePc_fault (s : State) : (s.advancePc).fault = s.fault := rfl
@[simp] theorem advancePc_debugLevel (s : State) : (s.advancePc).debugLevel = s.debugLevel := rfl
@[simp] theorem advancePc_rngMode (s : State) : (s.advancePc).rngMode = s.rngMode := rfl
@[simp] theorem advancePc_drawIndex (s : State) : (s.advancePc).drawIndex = s.drawIndex := rfl
@[simp] theorem advancePc_cfg (s : State) : (s.advancePc).cfg = s.cfg := rfl

/-! ### The delay timer -/

@[simp] theorem setDt_regs (s : State) (v : Byte) : (s.setDt v).regs = s.regs := rfl
@[simp] theorem setDt_i (s : State) (v : Byte) : (s.setDt v).i = s.i := rfl
@[simp] theorem setDt_pc (s : State) (v : Byte) : (s.setDt v).pc = s.pc := rfl
@[simp] theorem setDt_stack (s : State) (v : Byte) : (s.setDt v).stack = s.stack := rfl
@[simp] theorem setDt_dt (s : State) (v : Byte) : (s.setDt v).dt = v := rfl
@[simp] theorem setDt_st (s : State) (v : Byte) : (s.setDt v).st = s.st := rfl
@[simp] theorem setDt_accD (s : State) (v : Byte) : (s.setDt v).accD = s.accD := rfl
@[simp] theorem setDt_accS (s : State) (v : Byte) : (s.setDt v).accS = s.accS := rfl
@[simp] theorem setDt_mem (s : State) (v : Byte) : (s.setDt v).mem = s.mem := rfl
@[simp] theorem setDt_disp (s : State) (v : Byte) : (s.setDt v).disp = s.disp := rfl
@[simp] theorem setDt_keys (s : State) (v : Byte) : (s.setDt v).keys = s.keys := rfl
@[simp] theorem setDt_runnable (s : State) (v : Byte) : (s.setDt v).runnable = s.runnable := rfl
@[simp] theorem setDt_fault (s : State) (v : Byte) : (s.setDt v).fault = s.fault := rfl
@[simp] theorem setDt_debugLevel (s : State) (v : Byte) : (s.setDt v).debugLevel = s.debugLevel := rfl
@[simp] theorem setDt_rngMode (s : State) (v : Byte) : (s.setDt v).rngMode = s.rngMode := rfl
@[simp] theorem setDt_drawIndex (s : State) (v : Byte) : (s.setDt v).drawIndex = s.drawIndex := rfl
@[simp] theorem setDt_cfg (s : State) (v : Byte) : (s.setDt v).cfg = s.cfg := rfl

/-! ### The sound timer -/

@[simp] theorem setSt_regs (s : State) (v : Byte) : (s.setSt v).regs = s.regs := rfl
@[simp] theorem setSt_i (s : State) (v : Byte) : (s.setSt v).i = s.i := rfl
@[simp] theorem setSt_pc (s : State) (v : Byte) : (s.setSt v).pc = s.pc := rfl
@[simp] theorem setSt_stack (s : State) (v : Byte) : (s.setSt v).stack = s.stack := rfl
@[simp] theorem setSt_dt (s : State) (v : Byte) : (s.setSt v).dt = s.dt := rfl
@[simp] theorem setSt_st (s : State) (v : Byte) : (s.setSt v).st = v := rfl
@[simp] theorem setSt_accD (s : State) (v : Byte) : (s.setSt v).accD = s.accD := rfl
@[simp] theorem setSt_accS (s : State) (v : Byte) : (s.setSt v).accS = s.accS := rfl
@[simp] theorem setSt_mem (s : State) (v : Byte) : (s.setSt v).mem = s.mem := rfl
@[simp] theorem setSt_disp (s : State) (v : Byte) : (s.setSt v).disp = s.disp := rfl
@[simp] theorem setSt_keys (s : State) (v : Byte) : (s.setSt v).keys = s.keys := rfl
@[simp] theorem setSt_runnable (s : State) (v : Byte) : (s.setSt v).runnable = s.runnable := rfl
@[simp] theorem setSt_fault (s : State) (v : Byte) : (s.setSt v).fault = s.fault := rfl
@[simp] theorem setSt_debugLevel (s : State) (v : Byte) : (s.setSt v).debugLevel = s.debugLevel := rfl
@[simp] theorem setSt_rngMode (s : State) (v : Byte) : (s.setSt v).rngMode = s.rngMode := rfl
@[simp] theorem setSt_drawIndex (s : State) (v : Byte) : (s.setSt v).drawIndex = s.drawIndex := rfl
@[simp] theorem setSt_cfg (s : State) (v : Byte) : (s.setSt v).cfg = s.cfg := rfl

/-! ### The display -/

@[simp] theorem setDisp_regs (s : State) (d : Display) : (s.setDisp d).regs = s.regs := rfl
@[simp] theorem setDisp_i (s : State) (d : Display) : (s.setDisp d).i = s.i := rfl
@[simp] theorem setDisp_pc (s : State) (d : Display) : (s.setDisp d).pc = s.pc := rfl
@[simp] theorem setDisp_stack (s : State) (d : Display) : (s.setDisp d).stack = s.stack := rfl
@[simp] theorem setDisp_dt (s : State) (d : Display) : (s.setDisp d).dt = s.dt := rfl
@[simp] theorem setDisp_st (s : State) (d : Display) : (s.setDisp d).st = s.st := rfl
@[simp] theorem setDisp_accD (s : State) (d : Display) : (s.setDisp d).accD = s.accD := rfl
@[simp] theorem setDisp_accS (s : State) (d : Display) : (s.setDisp d).accS = s.accS := rfl
@[simp] theorem setDisp_mem (s : State) (d : Display) : (s.setDisp d).mem = s.mem := rfl
@[simp] theorem setDisp_disp (s : State) (d : Display) : (s.setDisp d).disp = d := rfl
@[simp] theorem setDisp_keys (s : State) (d : Display) : (s.setDisp d).keys = s.keys := rfl
@[simp] theorem setDisp_runnable (s : State) (d : Display) : (s.setDisp d).runnable = s.runnable := rfl
@[simp] theorem setDisp_fault (s : State) (d : Display) : (s.setDisp d).fault = s.fault := rfl
@[simp] theorem setDisp_debugLevel (s : State) (d : Display) : (s.setDisp d).debugLevel = s.debugLevel := rfl
@[simp] theorem setDisp_rngMode (s : State) (d : Display) : (s.setDisp d).rngMode = s.rngMode := rfl
@[simp] theorem setDisp_drawIndex (s : State) (d : Display) : (s.setDisp d).drawIndex = s.drawIndex := rfl
@[simp] theorem setDisp_cfg (s : State) (d : Display) : (s.setDisp d).cfg = s.cfg := rfl

/-! ### A memory write -/

@[simp] theorem writeByte_regs (s : State) (a : Nat) (v : Byte) : (s.writeByte a v).regs = s.regs := rfl
@[simp] theorem writeByte_i (s : State) (a : Nat) (v : Byte) : (s.writeByte a v).i = s.i := rfl
@[simp] theorem writeByte_pc (s : State) (a : Nat) (v : Byte) : (s.writeByte a v).pc = s.pc := rfl
@[simp] theorem writeByte_stack (s : State) (a : Nat) (v : Byte) : (s.writeByte a v).stack = s.stack := rfl
@[simp] theorem writeByte_dt (s : State) (a : Nat) (v : Byte) : (s.writeByte a v).dt = s.dt := rfl
@[simp] theorem writeByte_st (s : State) (a : Nat) (v : Byte) : (s.writeByte a v).st = s.st := rfl
@[simp] theorem writeByte_accD (s : State) (a : Nat) (v : Byte) : (s.writeByte a v).accD = s.accD := rfl
@[simp] theorem writeByte_accS (s : State) (a : Nat) (v : Byte) : (s.writeByte a v).accS = s.accS := rfl
@[simp] theorem writeByte_mem (s : State) (a : Nat) (v : Byte) : (s.writeByte a v).mem = Memory.write s.cfg s.mem a v := rfl
@[simp] theorem writeByte_disp (s : State) (a : Nat) (v : Byte) : (s.writeByte a v).disp = s.disp := rfl
@[simp] theorem writeByte_keys (s : State) (a : Nat) (v : Byte) : (s.writeByte a v).keys = s.keys := rfl
@[simp] theorem writeByte_runnable (s : State) (a : Nat) (v : Byte) : (s.writeByte a v).runnable = s.runnable := rfl
@[simp] theorem writeByte_fault (s : State) (a : Nat) (v : Byte) : (s.writeByte a v).fault = s.fault := rfl
@[simp] theorem writeByte_debugLevel (s : State) (a : Nat) (v : Byte) : (s.writeByte a v).debugLevel = s.debugLevel := rfl
@[simp] theorem writeByte_rngMode (s : State) (a : Nat) (v : Byte) : (s.writeByte a v).rngMode = s.rngMode := rfl
@[simp] theorem writeByte_drawIndex (s : State) (a : Nat) (v : Byte) : (s.writeByte a v).drawIndex = s.drawIndex := rfl
@[simp] theorem writeByte_cfg (s : State) (a : Nat) (v : Byte) : (s.writeByte a v).cfg = s.cfg := rfl

/-! ### A raise -/

@[simp] theorem raise_regs (s : State) (k : FaultKind) (pc0 : Word) : (raise k pc0 s).regs = s.regs := rfl
@[simp] theorem raise_i (s : State) (k : FaultKind) (pc0 : Word) : (raise k pc0 s).i = s.i := rfl
@[simp] theorem raise_pc (s : State) (k : FaultKind) (pc0 : Word) : (raise k pc0 s).pc = s.pc := rfl
@[simp] theorem raise_stack (s : State) (k : FaultKind) (pc0 : Word) : (raise k pc0 s).stack = s.stack := rfl
@[simp] theorem raise_dt (s : State) (k : FaultKind) (pc0 : Word) : (raise k pc0 s).dt = s.dt := rfl
@[simp] theorem raise_st (s : State) (k : FaultKind) (pc0 : Word) : (raise k pc0 s).st = s.st := rfl
@[simp] theorem raise_accD (s : State) (k : FaultKind) (pc0 : Word) : (raise k pc0 s).accD = s.accD := rfl
@[simp] theorem raise_accS (s : State) (k : FaultKind) (pc0 : Word) : (raise k pc0 s).accS = s.accS := rfl
@[simp] theorem raise_mem (s : State) (k : FaultKind) (pc0 : Word) : (raise k pc0 s).mem = s.mem := rfl
@[simp] theorem raise_disp (s : State) (k : FaultKind) (pc0 : Word) : (raise k pc0 s).disp = s.disp := rfl
@[simp] theorem raise_keys (s : State) (k : FaultKind) (pc0 : Word) : (raise k pc0 s).keys = s.keys := rfl
@[simp] theorem raise_runnable (s : State) (k : FaultKind) (pc0 : Word) : (raise k pc0 s).runnable = s.runnable := rfl
@[simp] theorem raise_fault (s : State) (k : FaultKind) (pc0 : Word) : (raise k pc0 s).fault = some ⟨k, pc0⟩ := rfl
@[simp] theorem raise_debugLevel (s : State) (k : FaultKind) (pc0 : Word) : (raise k pc0 s).debugLevel = s.debugLevel := rfl
@[simp] theorem raise_rngMode (s : State) (k : FaultKind) (pc0 : Word) : (raise k pc0 s).rngMode = s.rngMode := rfl
@[simp] theorem raise_drawIndex (s : State) (k : FaultKind) (pc0 : Word) : (raise k pc0 s).drawIndex = s.drawIndex := rfl
@[simp] theorem raise_cfg (s : State) (k : FaultKind) (pc0 : Word) : (raise k pc0 s).cfg = s.cfg := rfl

/-! ### A draw -/

@[simp] theorem draw_regs (s : State) : ((draw s).2).regs = s.regs := rfl
@[simp] theorem draw_i (s : State) : ((draw s).2).i = s.i := rfl
@[simp] theorem draw_pc (s : State) : ((draw s).2).pc = s.pc := rfl
@[simp] theorem draw_stack (s : State) : ((draw s).2).stack = s.stack := rfl
@[simp] theorem draw_dt (s : State) : ((draw s).2).dt = s.dt := rfl
@[simp] theorem draw_st (s : State) : ((draw s).2).st = s.st := rfl
@[simp] theorem draw_accD (s : State) : ((draw s).2).accD = s.accD := rfl
@[simp] theorem draw_accS (s : State) : ((draw s).2).accS = s.accS := rfl
@[simp] theorem draw_mem (s : State) : ((draw s).2).mem = s.mem := rfl
@[simp] theorem draw_disp (s : State) : ((draw s).2).disp = s.disp := rfl
@[simp] theorem draw_keys (s : State) : ((draw s).2).keys = s.keys := rfl
@[simp] theorem draw_runnable (s : State) : ((draw s).2).runnable = s.runnable := rfl
@[simp] theorem draw_fault (s : State) : ((draw s).2).fault = s.fault := rfl
@[simp] theorem draw_debugLevel (s : State) : ((draw s).2).debugLevel = s.debugLevel := rfl
@[simp] theorem draw_rngMode (s : State) : ((draw s).2).rngMode = s.rngMode := rfl
@[simp] theorem draw_drawIndex (s : State) : ((draw s).2).drawIndex = s.drawIndex + 1 := rfl
@[simp] theorem draw_cfg (s : State) : ((draw s).2).cfg = s.cfg := rfl

/-! ### The timer tick -/

@[simp] theorem timerTick_regs (s : State) : (timerTick s).regs = s.regs := rfl
@[simp] theorem timerTick_i (s : State) : (timerTick s).i = s.i := rfl
@[simp] theorem timerTick_pc (s : State) : (timerTick s).pc = s.pc := rfl
@[simp] theorem timerTick_stack (s : State) : (timerTick s).stack = s.stack := rfl
@[simp] theorem timerTick_dt (s : State) : (timerTick s).dt = (tickTimer s.cfg s.accD s.dt).2 := rfl
@[simp] theorem timerTick_st (s : State) : (timerTick s).st = (tickTimer s.cfg s.accS s.st).2 := rfl
@[simp] theorem timerTick_accD (s : State) : (timerTick s).accD = (tickTimer s.cfg s.accD s.dt).1 := rfl
@[simp] theorem timerTick_accS (s : State) : (timerTick s).accS = (tickTimer s.cfg s.accS s.st).1 := rfl
@[simp] theorem timerTick_mem (s : State) : (timerTick s).mem = s.mem := rfl
@[simp] theorem timerTick_disp (s : State) : (timerTick s).disp = s.disp := rfl
@[simp] theorem timerTick_keys (s : State) : (timerTick s).keys = s.keys := rfl
@[simp] theorem timerTick_runnable (s : State) : (timerTick s).runnable = s.runnable := rfl
@[simp] theorem timerTick_fault (s : State) : (timerTick s).fault = s.fault := rfl
@[simp] theorem timerTick_debugLevel (s : State) : (timerTick s).debugLevel = s.debugLevel := rfl
@[simp] theorem timerTick_rngMode (s : State) : (timerTick s).rngMode = s.rngMode := rfl
@[simp] theorem timerTick_drawIndex (s : State) : (timerTick s).drawIndex = s.drawIndex := rfl
@[simp] theorem timerTick_cfg (s : State) : (timerTick s).cfg = s.cfg := rfl

/-! ### The debug-level port -/

@[simp] theorem setDebugLevel_regs (s : State) (l : Nat) : (setDebugLevel l s).regs = s.regs := rfl
@[simp] theorem setDebugLevel_i (s : State) (l : Nat) : (setDebugLevel l s).i = s.i := rfl
@[simp] theorem setDebugLevel_pc (s : State) (l : Nat) : (setDebugLevel l s).pc = s.pc := rfl
@[simp] theorem setDebugLevel_stack (s : State) (l : Nat) : (setDebugLevel l s).stack = s.stack := rfl
@[simp] theorem setDebugLevel_dt (s : State) (l : Nat) : (setDebugLevel l s).dt = s.dt := rfl
@[simp] theorem setDebugLevel_st (s : State) (l : Nat) : (setDebugLevel l s).st = s.st := rfl
@[simp] theorem setDebugLevel_accD (s : State) (l : Nat) : (setDebugLevel l s).accD = s.accD := rfl
@[simp] theorem setDebugLevel_accS (s : State) (l : Nat) : (setDebugLevel l s).accS = s.accS := rfl
@[simp] theorem setDebugLevel_mem (s : State) (l : Nat) : (setDebugLevel l s).mem = s.mem := rfl
@[simp] theorem setDebugLevel_disp (s : State) (l : Nat) : (setDebugLevel l s).disp = s.disp := rfl
@[simp] theorem setDebugLevel_keys (s : State) (l : Nat) : (setDebugLevel l s).keys = s.keys := rfl
@[simp] theorem setDebugLevel_runnable (s : State) (l : Nat) : (setDebugLevel l s).runnable = s.runnable := rfl
@[simp] theorem setDebugLevel_fault (s : State) (l : Nat) : (setDebugLevel l s).fault = s.fault := rfl
@[simp] theorem setDebugLevel_debugLevel (s : State) (l : Nat) : (setDebugLevel l s).debugLevel = l := rfl
@[simp] theorem setDebugLevel_rngMode (s : State) (l : Nat) : (setDebugLevel l s).rngMode = if l ≥ 1 then .fixed else s.rngMode := rfl
@[simp] theorem setDebugLevel_drawIndex (s : State) (l : Nat) : (setDebugLevel l s).drawIndex = s.drawIndex := rfl
@[simp] theorem setDebugLevel_cfg (s : State) (l : Nat) : (setDebugLevel l s).cfg = s.cfg := rfl

/-! ### A skip -/

@[simp] theorem skipIf_regs (s : State) (c : Bool) : (s.skipIf c).regs = s.regs := by
  unfold State.skipIf; cases c <;> rfl
@[simp] theorem skipIf_i (s : State) (c : Bool) : (s.skipIf c).i = s.i := by
  unfold State.skipIf; cases c <;> rfl
@[simp] theorem skipIf_pc (s : State) (c : Bool) : (s.skipIf c).pc = if c then s.pc + 2 else s.pc := by
  unfold State.skipIf; cases c <;> rfl
@[simp] theorem skipIf_stack (s : State) (c : Bool) : (s.skipIf c).stack = s.stack := by
  unfold State.skipIf; cases c <;> rfl
@[simp] theorem skipIf_dt (s : State) (c : Bool) : (s.skipIf c).dt = s.dt := by
  unfold State.skipIf; cases c <;> rfl
@[simp] theorem skipIf_st (s : State) (c : Bool) : (s.skipIf c).st = s.st := by
  unfold State.skipIf; cases c <;> rfl
@[simp] theorem skipIf_accD (s : State) (c : Bool) : (s.skipIf c).accD = s.accD := by
  unfold State.skipIf; cases c <;> rfl
@[simp] theorem skipIf_accS (s : State) (c : Bool) : (s.skipIf c).accS = s.accS := by
  unfold State.skipIf; cases c <;> rfl
@[simp] theorem skipIf_mem (s : State) (c : Bool) : (s.skipIf c).mem = s.mem := by
  unfold State.skipIf; cases c <;> rfl
@[simp] theorem skipIf_disp (s : State) (c : Bool) : (s.skipIf c).disp = s.disp := by
  unfold State.skipIf; cases c <;> rfl
@[simp] theorem skipIf_keys (s : State) (c : Bool) : (s.skipIf c).keys = s.keys := by
  unfold State.skipIf; cases c <;> rfl
@[simp] theorem skipIf_runnable (s : State) (c : Bool) : (s.skipIf c).runnable = s.runnable := by
  unfold State.skipIf; cases c <;> rfl
@[simp] theorem skipIf_fault (s : State) (c : Bool) : (s.skipIf c).fault = s.fault := by
  unfold State.skipIf; cases c <;> rfl
@[simp] theorem skipIf_debugLevel (s : State) (c : Bool) : (s.skipIf c).debugLevel = s.debugLevel := by
  unfold State.skipIf; cases c <;> rfl
@[simp] theorem skipIf_rngMode (s : State) (c : Bool) : (s.skipIf c).rngMode = s.rngMode := by
  unfold State.skipIf; cases c <;> rfl
@[simp] theorem skipIf_drawIndex (s : State) (c : Bool) : (s.skipIf c).drawIndex = s.drawIndex := by
  unfold State.skipIf; cases c <;> rfl
@[simp] theorem skipIf_cfg (s : State) (c : Bool) : (s.skipIf c).cfg = s.cfg := by
  unfold State.skipIf; cases c <;> rfl

/-! ### The logic quirk -/

@[simp] theorem logicFlag_regs (s : State) : (s.logicFlag).regs = if s.cfg.quirkLogicVfReset then s.regs.set vf 0 else s.regs := by
  unfold State.logicFlag; cases s.cfg.quirkLogicVfReset <;> rfl
@[simp] theorem logicFlag_i (s : State) : (s.logicFlag).i = s.i := by
  unfold State.logicFlag; cases s.cfg.quirkLogicVfReset <;> rfl
@[simp] theorem logicFlag_pc (s : State) : (s.logicFlag).pc = s.pc := by
  unfold State.logicFlag; cases s.cfg.quirkLogicVfReset <;> rfl
@[simp] theorem logicFlag_stack (s : State) : (s.logicFlag).stack = s.stack := by
  unfold State.logicFlag; cases s.cfg.quirkLogicVfReset <;> rfl
@[simp] theorem logicFlag_dt (s : State) : (s.logicFlag).dt = s.dt := by
  unfold State.logicFlag; cases s.cfg.quirkLogicVfReset <;> rfl
@[simp] theorem logicFlag_st (s : State) : (s.logicFlag).st = s.st := by
  unfold State.logicFlag; cases s.cfg.quirkLogicVfReset <;> rfl
@[simp] theorem logicFlag_accD (s : State) : (s.logicFlag).accD = s.accD := by
  unfold State.logicFlag; cases s.cfg.quirkLogicVfReset <;> rfl
@[simp] theorem logicFlag_accS (s : State) : (s.logicFlag).accS = s.accS := by
  unfold State.logicFlag; cases s.cfg.quirkLogicVfReset <;> rfl
@[simp] theorem logicFlag_mem (s : State) : (s.logicFlag).mem = s.mem := by
  unfold State.logicFlag; cases s.cfg.quirkLogicVfReset <;> rfl
@[simp] theorem logicFlag_disp (s : State) : (s.logicFlag).disp = s.disp := by
  unfold State.logicFlag; cases s.cfg.quirkLogicVfReset <;> rfl
@[simp] theorem logicFlag_keys (s : State) : (s.logicFlag).keys = s.keys := by
  unfold State.logicFlag; cases s.cfg.quirkLogicVfReset <;> rfl
@[simp] theorem logicFlag_runnable (s : State) : (s.logicFlag).runnable = s.runnable := by
  unfold State.logicFlag; cases s.cfg.quirkLogicVfReset <;> rfl
@[simp] theorem logicFlag_fault (s : State) : (s.logicFlag).fault = s.fault := by
  unfold State.logicFlag; cases s.cfg.quirkLogicVfReset <;> rfl
@[simp] theorem logicFlag_debugLevel (s : State) : (s.logicFlag).debugLevel = s.debugLevel := by
  unfold State.logicFlag; cases s.cfg.quirkLogicVfReset <;> rfl
@[simp] theorem logicFlag_rngMode (s : State) : (s.logicFlag).rngMode = s.rngMode := by
  unfold State.logicFlag; cases s.cfg.quirkLogicVfReset <;> rfl
@[simp] theorem logicFlag_drawIndex (s : State) : (s.logicFlag).drawIndex = s.drawIndex := by
  unfold State.logicFlag; cases s.cfg.quirkLogicVfReset <;> rfl
@[simp] theorem logicFlag_cfg (s : State) : (s.logicFlag).cfg = s.cfg := by
  unfold State.logicFlag; cases s.cfg.quirkLogicVfReset <;> rfl

/-! ### The memory-increment quirk -/

@[simp] theorem bumpI_regs (s : State) (x : RegIdx) : (s.bumpI x).regs = s.regs := by
  unfold State.bumpI; cases s.cfg.quirkMemIncrementI <;> rfl
@[simp] theorem bumpI_i (s : State) (x : RegIdx) : (s.bumpI x).i = if s.cfg.quirkMemIncrementI then BitVec.ofNat 16 (s.base + x.val + 1) else s.i := by
  unfold State.bumpI; cases s.cfg.quirkMemIncrementI <;> rfl
@[simp] theorem bumpI_pc (s : State) (x : RegIdx) : (s.bumpI x).pc = s.pc := by
  unfold State.bumpI; cases s.cfg.quirkMemIncrementI <;> rfl
@[simp] theorem bumpI_stack (s : State) (x : RegIdx) : (s.bumpI x).stack = s.stack := by
  unfold State.bumpI; cases s.cfg.quirkMemIncrementI <;> rfl
@[simp] theorem bumpI_dt (s : State) (x : RegIdx) : (s.bumpI x).dt = s.dt := by
  unfold State.bumpI; cases s.cfg.quirkMemIncrementI <;> rfl
@[simp] theorem bumpI_st (s : State) (x : RegIdx) : (s.bumpI x).st = s.st := by
  unfold State.bumpI; cases s.cfg.quirkMemIncrementI <;> rfl
@[simp] theorem bumpI_accD (s : State) (x : RegIdx) : (s.bumpI x).accD = s.accD := by
  unfold State.bumpI; cases s.cfg.quirkMemIncrementI <;> rfl
@[simp] theorem bumpI_accS (s : State) (x : RegIdx) : (s.bumpI x).accS = s.accS := by
  unfold State.bumpI; cases s.cfg.quirkMemIncrementI <;> rfl
@[simp] theorem bumpI_mem (s : State) (x : RegIdx) : (s.bumpI x).mem = s.mem := by
  unfold State.bumpI; cases s.cfg.quirkMemIncrementI <;> rfl
@[simp] theorem bumpI_disp (s : State) (x : RegIdx) : (s.bumpI x).disp = s.disp := by
  unfold State.bumpI; cases s.cfg.quirkMemIncrementI <;> rfl
@[simp] theorem bumpI_keys (s : State) (x : RegIdx) : (s.bumpI x).keys = s.keys := by
  unfold State.bumpI; cases s.cfg.quirkMemIncrementI <;> rfl
@[simp] theorem bumpI_runnable (s : State) (x : RegIdx) : (s.bumpI x).runnable = s.runnable := by
  unfold State.bumpI; cases s.cfg.quirkMemIncrementI <;> rfl
@[simp] theorem bumpI_fault (s : State) (x : RegIdx) : (s.bumpI x).fault = s.fault := by
  unfold State.bumpI; cases s.cfg.quirkMemIncrementI <;> rfl
@[simp] theorem bumpI_debugLevel (s : State) (x : RegIdx) : (s.bumpI x).debugLevel = s.debugLevel := by
  unfold State.bumpI; cases s.cfg.quirkMemIncrementI <;> rfl
@[simp] theorem bumpI_rngMode (s : State) (x : RegIdx) : (s.bumpI x).rngMode = s.rngMode := by
  unfold State.bumpI; cases s.cfg.quirkMemIncrementI <;> rfl
@[simp] theorem bumpI_drawIndex (s : State) (x : RegIdx) : (s.bumpI x).drawIndex = s.drawIndex := by
  unfold State.bumpI; cases s.cfg.quirkMemIncrementI <;> rfl
@[simp] theorem bumpI_cfg (s : State) (x : RegIdx) : (s.bumpI x).cfg = s.cfg := by
  unfold State.bumpI; cases s.cfg.quirkMemIncrementI <;> rfl

/-! ### The register accessor over the updates -/

@[simp] theorem reg_setReg (s : State) (x k : RegIdx) (v : Byte) :
    (s.setReg x v).reg k = if k = x then v else s.reg k := by
  simp [State.reg, State.setReg, Vector.getElem_set, Fin.val_inj, eq_comm]

@[simp] theorem reg_setResultAndFlag (s : State) (x k : RegIdx) (v f : Byte) :
    (s.setResultAndFlag x v f).reg k = if k = vf then f else if k = x then v else s.reg k := by
  simp [State.setResultAndFlag]

@[simp] theorem reg_loadRegs (s : State) (bs : List Byte) (k : RegIdx) :
    (s.loadRegs bs).reg k = (bs[k.val]?).getD (s.reg k) := by
  simp [State.reg, State.loadRegs]

@[simp] theorem reg_logicFlag (s : State) (k : RegIdx) :
    s.logicFlag.reg k = if s.cfg.quirkLogicVfReset ∧ k = vf then 0 else s.reg k := by
  unfold State.logicFlag
  cases s.cfg.quirkLogicVfReset <;> simp

/-- An update that leaves the register file alone leaves every register alone. -/
theorem reg_eq_of_regs_eq {s t : State} (h : t.regs = s.regs) (k : RegIdx) : t.reg k = s.reg k := by
  simp [State.reg, h]

@[simp] theorem reg_setI (s : State) (v : Word) (r : RegIdx) : (s.setI v).reg r = s.reg r := rfl
@[simp] theorem reg_setPc (s : State) (v : Word) (r : RegIdx) : (s.setPc v).reg r = s.reg r := rfl
@[simp] theorem reg_advancePc (s : State) (r : RegIdx) : (s.advancePc).reg r = s.reg r := rfl
@[simp] theorem reg_setDt (s : State) (v : Byte) (r : RegIdx) : (s.setDt v).reg r = s.reg r := rfl
@[simp] theorem reg_setSt (s : State) (v : Byte) (r : RegIdx) : (s.setSt v).reg r = s.reg r := rfl
@[simp] theorem reg_setDisp (s : State) (d : Display) (r : RegIdx) : (s.setDisp d).reg r = s.reg r := rfl
@[simp] theorem reg_writeByte (s : State) (a : Nat) (v : Byte) (r : RegIdx) : (s.writeByte a v).reg r = s.reg r := rfl
@[simp] theorem reg_raise (s : State) (k : FaultKind) (pc0 : Word) (r : RegIdx) : (raise k pc0 s).reg r = s.reg r := rfl
@[simp] theorem reg_draw (s : State) (r : RegIdx) : ((draw s).2).reg r = s.reg r := rfl
@[simp] theorem reg_timerTick (s : State) (r : RegIdx) : (timerTick s).reg r = s.reg r := rfl
@[simp] theorem reg_skipIf (s : State) (c : Bool) (r : RegIdx) : (s.skipIf c).reg r = s.reg r :=
  reg_eq_of_regs_eq (by simp) r
@[simp] theorem reg_bumpI (s : State) (x : RegIdx) (r : RegIdx) : (s.bumpI x).reg r = s.reg r :=
  reg_eq_of_regs_eq (by simp) r

/-! ### The byte accessor over the updates -/

/-- An update that leaves memory and the configuration alone leaves every byte alone. -/
theorem readByte_eq_of_mem_eq {s t : State} (hm : t.mem = s.mem) (hc : t.cfg = s.cfg) (a : Nat) :
    t.readByte a = s.readByte a := by
  simp [State.readByte, hm, hc]

@[simp] theorem readByte_setReg (s : State) (x : RegIdx) (v : Byte) (a : Nat) : (s.setReg x v).readByte a = s.readByte a := rfl
@[simp] theorem readByte_setResultAndFlag (s : State) (x : RegIdx) (v f : Byte) (a : Nat) : (s.setResultAndFlag x v f).readByte a = s.readByte a := rfl
@[simp] theorem readByte_loadRegs (s : State) (bs : List Byte) (a : Nat) : (s.loadRegs bs).readByte a = s.readByte a := rfl
@[simp] theorem readByte_setI (s : State) (v : Word) (a : Nat) : (s.setI v).readByte a = s.readByte a := rfl
@[simp] theorem readByte_setPc (s : State) (v : Word) (a : Nat) : (s.setPc v).readByte a = s.readByte a := rfl
@[simp] theorem readByte_advancePc (s : State) (a : Nat) : (s.advancePc).readByte a = s.readByte a := rfl
@[simp] theorem readByte_setDt (s : State) (v : Byte) (a : Nat) : (s.setDt v).readByte a = s.readByte a := rfl
@[simp] theorem readByte_setSt (s : State) (v : Byte) (a : Nat) : (s.setSt v).readByte a = s.readByte a := rfl
@[simp] theorem readByte_setDisp (s : State) (d : Display) (a : Nat) : (s.setDisp d).readByte a = s.readByte a := rfl
@[simp] theorem readByte_raise (s : State) (k : FaultKind) (pc0 : Word) (a : Nat) : (raise k pc0 s).readByte a = s.readByte a := rfl
@[simp] theorem readByte_draw (s : State) (a : Nat) : ((draw s).2).readByte a = s.readByte a := rfl
@[simp] theorem readByte_timerTick (s : State) (a : Nat) : (timerTick s).readByte a = s.readByte a := rfl
@[simp] theorem readByte_setDebugLevel (s : State) (l : Nat) (a : Nat) : (setDebugLevel l s).readByte a = s.readByte a := rfl
@[simp] theorem readByte_skipIf (s : State) (c : Bool) (a : Nat) : (s.skipIf c).readByte a = s.readByte a :=
  readByte_eq_of_mem_eq (by simp) (by simp) a
@[simp] theorem readByte_logicFlag (s : State) (a : Nat) : (s.logicFlag).readByte a = s.readByte a :=
  readByte_eq_of_mem_eq (by simp) (by simp) a
@[simp] theorem readByte_bumpI (s : State) (x : RegIdx) (a : Nat) : (s.bumpI x).readByte a = s.readByte a :=
  readByte_eq_of_mem_eq (by simp) (by simp) a

/-! ### What the two conditional updates leave alone, in one equation -/

/-- The memory-increment quirk writes I and nothing else (R110, R111). -/
theorem bumpI_frame (s : State) (x : RegIdx) : s.bumpI x = { s with i := (s.bumpI x).i } := by
  unfold State.bumpI; split <;> rfl

/-- The logic quirk writes the register file and nothing else (R87). -/
theorem logicFlag_frame (s : State) : s.logicFlag = { s with regs := s.logicFlag.regs } := by
  unfold State.logicFlag; split <;> rfl

/-- A skip writes PC and nothing else (R14). -/
theorem skipIf_frame (s : State) (c : Bool) : s.skipIf c = { s with pc := (s.skipIf c).pc } := by
  unfold State.skipIf; split <;> rfl

end Sys2Proof.Machine
end

