-- ==== Sys2Proof/Laws/Memory.lean ====
section
/-! SUPPORT. The laws of memory: a read after a write, the canonical form and its uniqueness, and what the block
accesses do, each said once. -/

namespace Sys2Proof.Machine

variable {cfg : Config} {m : Memory}

/-! ## Reading and writing one byte -/

theorem Memory.wf_nil : Memory.wf cfg [] := ⟨List.Pairwise.nil, by simp⟩

theorem Memory.wf_cons {c : Host.Cell} (h : Memory.wf cfg (c :: m)) :
    (∀ p ∈ m, c.1 < p.1) ∧ c.1 < memSize ∧ c.2 ≠ unlistedByte cfg c.1 ∧ Memory.wf cfg m := by
  obtain ⟨hs, hc⟩ := h
  rw [List.pairwise_cons] at hs
  exact ⟨hs.1, (hc c (by simp)).1, (hc c (by simp)).2, hs.2, fun p hp => hc p (by simp [hp])⟩

/-- An address no cell names reads as the unlisted byte. -/
theorem Memory.read_unlisted {a : Nat} (h : ∀ c ∈ m, c.1 ≠ a) : Memory.read cfg m a = unlistedByte cfg a := by
  induction m with
  | nil => rfl
  | cons c cs ih =>
    have hc : c.1 ≠ a := h c (by simp)
    simpa [Memory.read, hc] using ih fun p hp => h p (by simp [hp])

/-- A write leaves every other address alone. -/
theorem Memory.read_write_other {a b : Nat} (v : Byte) (h : b ≠ a) :
    Memory.read cfg (Memory.write cfg m a v) b = Memory.read cfg m b := by
  induction m with
  | nil => by_cases hv : v = unlistedByte cfg a <;> simp [Memory.write, Memory.read, hv, h.symm]
  | cons c cs ih =>
    by_cases hlt : c.1 < a
    · simp [Memory.write, Memory.read, hlt, ih]
    · by_cases heq : c.1 = a
      · by_cases hv : v = unlistedByte cfg a <;> simp [Memory.write, Memory.read, heq, hv, h.symm]
      · by_cases hv : v = unlistedByte cfg a <;> simp [Memory.write, Memory.read, hlt, heq, hv, h.symm]

/-- A read of the address written gives the byte written, in a canonical memory. -/
theorem Memory.read_write_same {a : Nat} (v : Byte) (h : Memory.wf cfg m) :
    Memory.read cfg (Memory.write cfg m a v) a = v := by
  induction m with
  | nil => by_cases hv : v = unlistedByte cfg a <;> simp [Memory.write, Memory.read, hv]
  | cons c cs ih =>
    obtain ⟨hlt, -, -, hcs⟩ := Memory.wf_cons h
    by_cases hca : c.1 < a
    · have hne : c.1 ≠ a := by omega
      simp [Memory.write, Memory.read, hca, hne, ih hcs]
    · by_cases hv : v = unlistedByte cfg a
      · have hcs' : ∀ p ∈ cs, p.1 ≠ a := fun p hp => by have := hlt p hp; omega
        by_cases heq : c.1 = a
        · simp [Memory.write, heq, hv, Memory.read_unlisted hcs']
        · simp [Memory.write, hca, heq, hv, Memory.read, Memory.read_unlisted hcs']
      · simp [Memory.write, hca, hv, Memory.read]

/-- Every cell of a written memory is an old cell or the written one. -/
theorem Memory.mem_write {a : Nat} {v : Byte} {p : Host.Cell} (h : p ∈ Memory.write cfg m a v) :
    p ∈ m ∨ p = (a, v) := by
  induction m with
  | nil => by_cases hv : v = unlistedByte cfg a <;> simp_all [Memory.write]
  | cons c cs ih =>
    by_cases hlt : c.1 < a
    · rw [Memory.write, if_pos hlt, List.mem_cons] at h
      rcases h with h | h
      · simp [h]
      · rcases ih h with h | h <;> simp [h]
    · by_cases hv : v = unlistedByte cfg a <;> by_cases heq : c.1 = a <;>
        simp [Memory.write, hlt, hv, heq] at h ⊢ <;> tauto

/-- A write inside the array keeps the canonical form. -/
theorem Memory.write_wf {a : Nat} (v : Byte) (ha : a < memSize) (h : Memory.wf cfg m) :
    Memory.wf cfg (Memory.write cfg m a v) := by
  induction m with
  | nil =>
    by_cases hv : v = unlistedByte cfg a
    · simpa [Memory.write, hv] using Memory.wf_nil
    · simp [Memory.write, hv, Memory.wf, ha]
  | cons c cs ih =>
    obtain ⟨hlt, hc1, hc2, hcs⟩ := Memory.wf_cons h
    by_cases hca : c.1 < a
    · obtain ⟨hp, hall⟩ := ih hcs
      rw [Memory.write, if_pos hca]
      refine ⟨List.pairwise_cons.2 ⟨fun p hp' => ?_, hp⟩, fun p hp' => ?_⟩
      · rcases Memory.mem_write hp' with h' | rfl
        · exact hlt p h'
        · exact hca
      · rcases List.mem_cons.1 hp' with rfl | h'
        · exact ⟨hc1, hc2⟩
        · exact hall p h'
    · have hrest : Memory.wf cfg (if c.1 = a then cs else c :: cs) := by split <;> assumption
      have habove : ∀ p ∈ (if c.1 = a then cs else c :: cs), a < p.1 := by
        intro p hp
        split at hp
        · have := hlt p hp; omega
        · rcases List.mem_cons.1 hp with rfl | h'
          · omega
          · have := hlt p h'; omega
      by_cases hv : v = unlistedByte cfg a
      · simpa only [Memory.write, if_neg hca, if_pos hv] using hrest
      · simp only [Memory.write, if_neg hca, if_neg hv]
        refine ⟨List.pairwise_cons.2 ⟨habove, hrest.1⟩, fun p hp => ?_⟩
        rcases List.mem_cons.1 hp with rfl | h'
        · exact ⟨ha, hv⟩
        · exact hrest.2 p h'

/-- Every cell of a memory built from bytes lies at or above the first address, below the last, and differs from the
unlisted byte. -/
theorem Memory.mem_ofBytes {bs : List Byte} {a : Nat} {p : Host.Cell} (h : p ∈ Memory.ofBytes cfg a bs) :
    a ≤ p.1 ∧ p.1 < a + bs.length ∧ p.2 ≠ unlistedByte cfg p.1 := by
  induction bs generalizing a with
  | nil => simp [Memory.ofBytes] at h
  | cons b bs ih =>
    rw [Memory.ofBytes] at h
    split at h
    · have := ih h; simp only [List.length_cons]; exact ⟨by omega, by omega, this.2.2⟩
    · rcases List.mem_cons.1 h with rfl | h'
      · simp_all
      · have := ih h'; simp only [List.length_cons]; exact ⟨by omega, by omega, this.2.2⟩

/-- The memory a ROM copy builds is canonical. -/
theorem Memory.ofBytes_wf {bs : List Byte} {a : Nat} (h : a + bs.length ≤ memSize) :
    Memory.wf cfg (Memory.ofBytes cfg a bs) := by
  refine ⟨?_, fun p hp => ?_⟩
  · clear h
    induction bs generalizing a with
    | nil => simp [Memory.ofBytes]
    | cons b bs ih =>
      rw [Memory.ofBytes]
      split
      · exact ih
      · exact List.pairwise_cons.2 ⟨fun p hp => by have := (Memory.mem_ofBytes hp).1; simp only; omega, ih⟩
  · have := Memory.mem_ofBytes hp
    exact ⟨by omega, this.2.2⟩

/-- The memory a ROM copy builds holds the ROM, and the unlisted bytes elsewhere. -/
theorem Memory.read_ofBytes {bs : List Byte} {a b : Nat} :
    Memory.read cfg (Memory.ofBytes cfg a bs) b =
      if a ≤ b then (bs[b - a]?).getD (unlistedByte cfg b) else unlistedByte cfg b := by
  induction bs generalizing a with
  | nil => simp [Memory.ofBytes, Memory.read]
  | cons v bs ih =>
    have hstep : a < b → b - a = (b - (a + 1)) + 1 := by omega
    rw [Memory.ofBytes]
    rcases Nat.lt_trichotomy a b with hab | rfl | hab
    · have h2 : a + 1 ≤ b := hab
      have h3 : a ≠ b := by omega
      split <;> simp [Memory.read, ih, h2, h3, hstep hab, hab.le]
    · split <;> rename_i hv <;> simp [Memory.read, ih, hv]
    · have h2 : ¬ a + 1 ≤ b := by omega
      have h3 : a ≠ b := by omega
      split <;> simp [Memory.read, ih, h2, h3, hab.not_ge]

/-- A listed cell reads as itself in a canonical memory. -/
theorem Memory.read_of_mem {p : Host.Cell} (h : Memory.wf cfg m) (hp : p ∈ m) : Memory.read cfg m p.1 = p.2 := by
  induction m with
  | nil => simp at hp
  | cons c cs ih =>
    obtain ⟨hlt, -, -, hcs⟩ := Memory.wf_cons h
    rcases List.mem_cons.1 hp with rfl | hp'
    · simp [Memory.read]
    · have := hlt p hp'
      have hne : c.1 ≠ p.1 := by omega
      simp [Memory.read, hne, ih hcs hp']

/-- Equal memories are equal lists: a canonical memory is determined by its reads. -/
theorem Memory.eq_of_read_eq {m₁ m₂ : Memory} (h₁ : Memory.wf cfg m₁) (h₂ : Memory.wf cfg m₂)
    (h : ∀ a, Memory.read cfg m₁ a = Memory.read cfg m₂ a) : m₁ = m₂ := by
  have sub : ∀ {m n : Memory}, Memory.wf cfg m → Memory.wf cfg n →
      (∀ a, Memory.read cfg m a = Memory.read cfg n a) → m ⊆ n := by
    intro m n hm hn hr p hp
    have hread : Memory.read cfg n p.1 = p.2 := by rw [← hr, Memory.read_of_mem hm hp]
    by_contra hnot
    refine (hm.2 p hp).2 ?_
    rw [← hread]
    refine Memory.read_unlisted fun c hc heq => hnot ?_
    have : c.2 = p.2 := by rw [← Memory.read_of_mem hn hc, heq, hread]
    have hcp : c = p := Prod.ext heq this
    exact hcp ▸ hc
  have nodup : ∀ {m : Memory}, Memory.wf cfg m → m.Nodup := fun hm =>
    hm.1.imp fun hlt heq => by simp [heq] at hlt
  have hperm : m₁.Perm m₂ := (List.perm_ext_iff_of_nodup (nodup h₁) (nodup h₂)).2 fun p =>
    ⟨fun hp => sub h₁ h₂ h hp, fun hp => sub h₂ h₁ (fun a => (h a).symm) hp⟩
  exact hperm.eq_of_pairwise (fun p q _ _ hpq hqp => absurd hpq (by omega)) h₁.1 h₂.1

/-! ## The byte accessor of the state -/

theorem readByte_writeByte_same (s : State) {a : Nat} (v : Byte) (h : Memory.wf s.cfg s.mem) :
    (s.writeByte a v).readByte a = v := Memory.read_write_same v h

theorem readByte_writeByte_other (s : State) {a b : Nat} (v : Byte) (h : b ≠ a) :
    (s.writeByte a v).readByte b = s.readByte b := Memory.read_write_other v h

/-! ## Block reads -/

/-- A block inside the array is read whole, in ascending order. -/
theorem readBlock_inRange (s : State) {a n : Nat} (h : a + n ≤ 0x1000) :
    readBlock a n s = .ok ((List.range n).map fun k => s.readByte (a + k)) := by
  induction n generalizing a with
  | zero => rfl
  | succ n ih =>
    have ha : ¬ a > 0xFFF := by omega
    rw [readBlock, memRead, if_neg ha, ih (by omega : a + 1 + n ≤ 0x1000), List.range_succ_eq_map]
    simp [Function.comp_def, Nat.add_comm, Nat.add_left_comm]

/-- A block that leaves the array raises the lowest address outside it (R53). -/
theorem readBlock_outOfRange (s : State) {a n : Nat} (hn : 0 < n) (h : 0x1000 < a + n) :
    readBlock a n s = .error (.addressFault (max a 0x1000)) := by
  induction n generalizing a with
  | zero => omega
  | succ n ih =>
    by_cases ha : a > 0xFFF
    · rw [readBlock, memRead, if_pos ha, Nat.max_eq_left (by omega)]
    · have hn' : 0 < n := by omega
      have hmax : max (a + 1) 0x1000 = max a 0x1000 := by omega
      rw [readBlock, memRead, if_neg ha, ih hn' (by omega), hmax]

/-- A block that was read has the length asked for. -/
theorem readBlock_length {s : State} {a n : Nat} {bs : List Byte} (h : readBlock a n s = .ok bs) : bs.length = n := by
  induction n generalizing a bs with
  | zero => simp [readBlock] at h; simp [← h]
  | succ n ih =>
    rw [readBlock] at h
    split at h
    · simp at h
    · split at h
      · simp at h
      · rename_i hbs
        simp only [Except.ok.injEq] at h
        simp [← h, ih hbs]

/-! ## Block writes -/

/-- What a store of a block that lies in the writable region gives: memory and nothing else changes, and memory
stays canonical. -/
theorem writeBlock_ok {s t : State} {a : Nat} {bs : List Byte} (h : writeBlock a bs s = .ok t) :
    t = { s with mem := t.mem } ∧ (Memory.wf s.cfg s.mem → Memory.wf s.cfg t.mem) ∧
      (s.FontIntact → t.FontIntact) := by
  induction bs generalizing a s with
  | nil => simp [writeBlock] at h; simp [h]
  | cons b bs ih =>
    rw [writeBlock] at h
    split at h
    · simp at h
    · rename_i u hu
      unfold memWrite at hu
      split at hu
      · simp at hu
      · split at hu
        · simp at hu
        · rename_i hhi hlo
          simp only [Except.ok.injEq] at hu
          subst hu
          obtain ⟨heq, hwf, hfont⟩ := ih h
          refine ⟨by rw [heq]; rfl, fun hs => hwf ?_, fun hs => hfont ?_⟩
          · exact Memory.write_wf b (by simp only [memSize]; omega) hs
          · intro c hc
            rcases Memory.mem_write hc with hc | rfl
            · exact hs c hc
            · simp only [progBase]; omega

/-- A block inside the writable region is stored. -/
theorem writeBlock_inRange (s : State) {a : Nat} {bs : List Byte} (hlo : 0x200 ≤ a) (hhi : a + bs.length ≤ 0x1000) :
    ∃ t, writeBlock a bs s = .ok t := by
  induction bs generalizing a s with
  | nil => exact ⟨s, rfl⟩
  | cons b bs ih =>
    simp only [List.length_cons] at hhi
    have h1 : ¬ a > 0xFFF := by omega
    have h2 : ¬ a < 0x200 := by omega
    rw [writeBlock, memWrite, if_neg h1, if_neg h2]
    exact ih _ (by omega) (by omega)

/-- A store that begins in the reserved region raises at its first address (R53). -/
theorem writeBlock_reserved (s : State) {a : Nat} {bs : List Byte} (hlo : a < 0x200) (hne : bs ≠ []) :
    writeBlock a bs s = .error (.reservedWriteFault a) := by
  cases bs with
  | nil => exact absurd rfl hne
  | cons b bs =>
    have h1 : ¬ a > 0xFFF := by omega
    rw [writeBlock, memWrite, if_neg h1, if_pos hlo]

/-- A store that leaves the array raises the lowest address outside it (R53). -/
theorem writeBlock_outOfRange (s : State) {a : Nat} {bs : List Byte} (hlo : 0x200 ≤ a) (hne : bs ≠ [])
    (h : 0x1000 < a + bs.length) : writeBlock a bs s = .error (.addressFault (max a 0x1000)) := by
  induction bs generalizing a s with
  | nil => exact absurd rfl hne
  | cons b bs ih =>
    simp only [List.length_cons] at h
    by_cases ha : a > 0xFFF
    · rw [writeBlock, memWrite, if_pos ha, Nat.max_eq_left (by omega)]
    · have h2 : ¬ a < 0x200 := by omega
      have hmax : max (a + 1) 0x1000 = max a 0x1000 := by omega
      have hne' : bs ≠ [] := by rintro rfl; simp only [List.length_nil] at h; omega
      rw [writeBlock, memWrite, if_neg ha, if_neg h2]
      simp only
      rw [ih _ (by omega) hne' (by omega), hmax]

/-- A store leaves every byte outside its block alone. -/
theorem writeBlock_other {s t : State} {a b : Nat} {bs : List Byte} (h : writeBlock a bs s = .ok t)
    (hb : b < a ∨ a + bs.length ≤ b) : t.readByte b = s.readByte b := by
  induction bs generalizing a s with
  | nil => simp [writeBlock] at h; simp [h]
  | cons v bs ih =>
    rw [writeBlock] at h
    split at h
    · simp at h
    · rename_i u hu
      unfold memWrite at hu
      split at hu
      · simp at hu
      · split at hu
        · simp at hu
        · simp only [Except.ok.injEq] at hu
          subst hu
          simp only [List.length_cons] at hb
          rw [ih h (by omega), readByte_writeByte_other _ _ (by omega)]

/-- A store puts its bytes at its addresses, in a canonical memory. -/
theorem writeBlock_same {s t : State} {a k : Nat} {bs : List Byte} (h : writeBlock a bs s = .ok t)
    (hwf : Memory.wf s.cfg s.mem) (hk : k < bs.length) : t.readByte (a + k) = bs[k] := by
  induction bs generalizing a s k with
  | nil => simp at hk
  | cons v bs ih =>
    rw [writeBlock] at h
    split at h
    · simp at h
    · rename_i u hu
      unfold memWrite at hu
      split at hu
      · simp at hu
      · split at hu
        · simp at hu
        · rename_i hhi hlo
          simp only [Except.ok.injEq] at hu
          subst hu
          cases k with
          | zero => rw [Nat.add_zero, writeBlock_other h (by omega), readByte_writeByte_same _ _ hwf]; rfl
          | succ k =>
            have hk' : k < bs.length := by simpa using hk
            have := ih h (Memory.write_wf v (by simp only [memSize]; omega) hwf) hk'
            rw [show a + (k + 1) = a + 1 + k by omega, this]
            rfl

end Sys2Proof.Machine
end

