-- ==== Sys2Proof/Laws/Ops.lean ====
section
/-! SUPPORT. For each shared operation, once, everything it can do: the end of an instruction, the stack, the timer
tick, the fetch, the key operand and the lowest pressed key, the memory-increment quirk, the cycle. -/

namespace Sys2Proof.Machine

/-! ## The end of an instruction (R12) -/

@[simp] theorem complete_ok (s t : State) : complete s (.ok t) = .next t := rfl

@[simp] theorem complete_error (s : State) (k : FaultKind) : complete s (.error k) = .next (raise k s.pc0 s) := rfl

/-- An instruction ends in its result or in the raise of its fault. -/
theorem complete_cases {s t : State} {r : Except FaultKind State} (h : complete s r = .next t) :
    r = .ok t ∨ ∃ k, r = .error k ∧ t = raise k s.pc0 s := by
  cases r with
  | ok u => left; simpa using h
  | error k => right; exact ⟨k, rfl, by simpa using h.symm⟩

@[simp] theorem pc0_advancePc (s : State) : s.advancePc.pc0 = s.pc := by
  simp [State.pc0]

/-! ## The call stack (R25) -/

theorem push_cases {v : Word} {s : State} {r : Except FaultKind State} (h : push v s = r) :
    (s.sp = stackDepth ∧ r = .error .stackOverflow) ∨
      (s.sp ≠ stackDepth ∧ r = .ok { s with stack := v :: s.stack }) := by
  unfold push at h
  split at h <;> rename_i hd
  · exact .inl ⟨hd, h.symm⟩
  · exact .inr ⟨hd, h.symm⟩

theorem pop_cases {s : State} {r : Except FaultKind (Word × State)} (h : pop s = r) :
    (s.stack = [] ∧ r = .error .stackUnderflow) ∨
      ∃ v rest, s.stack = v :: rest ∧ r = .ok (v, { s with stack := rest }) := by
  unfold pop at h
  split at h <;> rename_i hs
  · exact .inl ⟨hs, h.symm⟩
  · exact .inr ⟨_, _, hs, h.symm⟩

/-! ## The timer tick (R123) -/

/-- One timer's tick, both of its cases. -/
theorem tickTimer_cases (cfg : Config) (acc : Nat) (timer : Byte) :
    (acc + cfg.cycleUnit > cfg.tickPeriod ∧ (tickTimer cfg acc timer).1 = acc + cfg.cycleUnit - cfg.tickPeriod ∧
      (tickTimer cfg acc timer).2.toNat = timer.toNat - 1) ∨
    (acc + cfg.cycleUnit ≤ cfg.tickPeriod ∧ (tickTimer cfg acc timer).1 = acc + cfg.cycleUnit ∧
      (tickTimer cfg acc timer).2 = timer) := by
  unfold tickTimer
  split <;> rename_i h
  · refine .inl ⟨h, rfl, ?_⟩
    simp only
    split
    · rename_i hz; simp [hz]
    · bv_omega
  · exact .inr ⟨by omega, rfl, rfl⟩

/-- After a tick an accumulator is at most `TICK_PERIOD` when the configuration is valid (R28). -/
theorem tickTimer_acc_le {cfg : Config} {acc : Nat} (timer : Byte) (hv : cfg.Valid) (h : acc ≤ cfg.tickPeriod) :
    (tickTimer cfg acc timer).1 ≤ cfg.tickPeriod := by
  have := hv.2
  rcases tickTimer_cases cfg acc timer with ⟨-, h1, -⟩ | ⟨h0, h1, -⟩ <;> omega

/-- The accumulator's tick does not look at the timer. -/
theorem tickTimer_acc_eq (cfg : Config) (acc : Nat) (t u : Byte) :
    (tickTimer cfg acc t).1 = (tickTimer cfg acc u).1 := by
  unfold tickTimer; split <;> rfl

/-! ## The fetch (R52) -/

theorem fetchWord_cases {pc : Word} {s : State} {r : Except FaultKind Word} (h : fetchWord pc s = r) :
    (pc.toNat > 0xFFE ∧ r = .error (.fetchFault pc)) ∨
      (pc.toNat ≤ 0xFFE ∧ r = .ok (wordOfBytes (s.readByte pc.toNat) (s.readByte (pc.toNat + 1)))) := by
  unfold fetchWord at h
  split at h <;> rename_i hp
  · exact .inl ⟨hp, h.symm⟩
  · exact .inr ⟨by omega, h.symm⟩

@[simp] theorem fetchWord_timerTick (pc : Word) (s : State) : fetchWord pc (timerTick s) = fetchWord pc s := rfl

/-! ## Keys (R100 to R102) -/

theorem keyOperand_cases {k : Byte} {s : State} {r : Except FaultKind Bool} (h : keyOperand k s = r) :
    (∃ hk : k.toNat < 16, r = .ok s.keys[k.toNat]) ∨ (k.toNat > 15 ∧ r = .error (.keyIndexFault k)) := by
  unfold keyOperand at h
  split at h <;> rename_i hk
  · exact .inl ⟨hk, h.symm⟩
  · exact .inr ⟨by omega, h.symm⟩

theorem lowestPressed_none {s : State} : lowestPressed s = none ↔ ∀ k : Fin 16, s.keys[k] = false := by
  simp [lowestPressed, List.find?_eq_none]

/-- The key the wait stores is pressed, and no lower one is. -/
theorem lowestPressed_some {s : State} {k : Fin 16} (h : lowestPressed s = some k) :
    s.keys[k] = true ∧ ∀ j : Fin 16, j < k → s.keys[j] = false := by
  obtain ⟨hk, as, bs, hsplit, has⟩ := List.find?_eq_some_iff_append.1 h
  refine ⟨by simpa using hk, fun j hj => ?_⟩
  have hsort : (as ++ k :: bs).Pairwise (· < ·) := by
    rw [← hsplit]; exact List.pairwise_lt_finRange 16
  have hmem : j ∈ as ++ k :: bs := by rw [← hsplit]; exact List.mem_finRange j
  rcases List.mem_append.1 hmem with hja | hjb
  · simpa using has j hja
  · rcases List.mem_cons.1 hjb with rfl | hjb
    · exact absurd hj (lt_irrefl _)
    · have := (List.pairwise_cons.1 (List.pairwise_append.1 hsort).2.1).1 j hjb
      exact absurd hj (not_lt.2 this.le)

/-! ## The cycle (R70) -/

theorem idle_iff {s : State} : s.idle = true ↔ s.runnable = false ∨ s.fault ≠ none := by
  cases hr : s.runnable <;> cases hf : s.fault <;> simp [State.idle, hr, hf]

theorem idle_false {s : State} (h : s.Live) : s.idle = false := by
  simp [State.idle, h.1, h.2]

/-- Everything a step can do: nothing, a fetch fault, a decode fault, or one instruction after the tick and the
advance. -/
theorem step_cases {s : State} {r : Host.Outcome State Fault Refusal} (h : step s = r) :
    (¬ s.Live ∧ r = .next s) ∨
    (s.Live ∧ s.pc.toNat > 0xFFE ∧ r = .next (raise (.fetchFault s.pc) s.pc (timerTick s))) ∨
    (∃ op, s.Live ∧ s.pc.toNat ≤ 0xFFE ∧ fetchWord s.pc s = .ok op ∧
      ((decode op = .error (.unknownOpcode op) ∧
          r = .next (raise (.unknownOpcode op) s.pc (timerTick s).advancePc)) ∨
        ∃ i, decode op = .ok i ∧ r = exec i (timerTick s).advancePc)) := by
  unfold step cycle at h
  by_cases hidle : s.idle = true
  · left
    rw [if_pos hidle] at h
    refine ⟨fun hl => ?_, h.symm⟩
    rw [idle_false hl] at hidle
    exact absurd hidle (by simp)
  · right
    have hl : s.Live := by
      have := mt idle_iff.2 hidle
      push Not at this
      exact ⟨by simpa using this.1, this.2⟩
    rw [if_neg hidle] at h
    unfold fetchAndExecute at h
    rcases fetchWord_cases (s := timerTick s) (pc := (timerTick s).pc) rfl with ⟨hp, hf⟩ | ⟨hp, hf⟩
    · left
      rw [hf] at h
      exact ⟨hl, by simpa using hp, by simpa using h.symm⟩
    · right
      rw [hf] at h
      refine ⟨_, hl, by simpa using hp, hf, ?_⟩
      simp only [decodeAndExecute] at h
      rcases decode_cases (wordOfBytes ((timerTick s).readByte (timerTick s).pc.toNat)
          ((timerTick s).readByte ((timerTick s).pc.toNat + 1))) with hd | ⟨i, hd⟩
      · left
        rw [hd] at h
        exact ⟨hd, h.symm⟩
      · right
        rw [hd] at h
        exact ⟨i, hd, h.symm⟩

end Sys2Proof.Machine
end

