-- ==== Sys2Proof/Laws/Display.lean ====
section
/-! SUPPORT. The laws of the blitter's steps: one cell toggled, one bit drawn; and the whole
blit: which cells a sprite changes, how, and when it collides. -/

namespace Sys2Proof.Machine

@[simp] theorem cellAt_blankDisplay (x : Fin 64) (y : Fin 32) : cellAt blankDisplay x y = false := by
  simp [cellAt, blankDisplay]

/-- Two displays are equal when their cells are. -/
theorem display_ext {d e : Display} (h : ∀ x y, cellAt d x y = cellAt e x y) : d = e := by
  refine Vector.ext fun y hy => Vector.ext fun x hx => ?_
  exact h ⟨x, hx⟩ ⟨y, hy⟩

/-- A toggle changes its own cell and no other. -/
theorem cellAt_toggleCell (d : Display) (x px : Fin 64) (y py : Fin 32) :
    cellAt (toggleCell d x y) px py = (cellAt d px py ^^ decide (px = x ∧ py = y)) := by
  by_cases hy : py = y
  · subst hy
    by_cases hx : px = x
    · subst hx
      simp [cellAt, toggleCell]
    · have hx' : x.val ≠ px.val := fun h => hx (Fin.ext h.symm)
      simp [cellAt, toggleCell, hx, hx']
  · have hy' : y.val ≠ py.val := fun h => hy (Fin.ext h.symm)
    simp [cellAt, toggleCell, hy, hy']

/-- One bit drawn: the cell under it is XORed with the bit. -/
theorem cellAt_blitBit (x0 y c : Nat) (row : Byte) (acc : Display × Bool) (px : Fin 64) (py : Fin 32) :
    cellAt (blitBit x0 y row acc c).1 px py =
      (cellAt acc.1 px py ^^
        (row.getLsbD (7 - c) && decide (px = Fin.ofNat 64 (x0 + c) ∧ py = Fin.ofNat 32 y))) := by
  unfold blitBit
  cases row.getLsbD (7 - c)
  · simp
  · simpa using cellAt_toggleCell _ _ _ _ _

/-- One bit drawn: a collision is a set bit on a cell that is on. -/
theorem blitBit_hit (x0 y c : Nat) (row : Byte) (acc : Display × Bool) :
    (blitBit x0 y row acc c).2 =
      (acc.2 || (row.getLsbD (7 - c) && cellAt acc.1 (Fin.ofNat 64 (x0 + c)) (Fin.ofNat 32 y))) := by
  unfold blitBit
  cases row.getLsbD (7 - c) <;> simp

/-! ## A row of bits -/

theorem ofNat64_inj {x0 c e : Nat} (hc : c < 64) (he : e < 64) (h : Fin.ofNat 64 (x0 + c) = Fin.ofNat 64 (x0 + e)) :
    c = e := by
  have := congrArg Fin.val h
  simp only [Fin.val_ofNat] at this
  omega

theorem ofNat32_inj {y0 c e : Nat} (hc : c < 32) (he : e < 32) (h : Fin.ofNat 32 (y0 + c) = Fin.ofNat 32 (y0 + e)) :
    c = e := by
  have := congrArg Fin.val h
  simp only [Fin.val_ofNat] at this
  omega

/-- The first `k` bits of a row. -/
def blitBits (x0 y : Nat) (row : Byte) (acc : Display × Bool) (k : Nat) : Display × Bool :=
  (List.range k).foldl (blitBit x0 y row) acc

theorem blitBits_succ (x0 y : Nat) (row : Byte) (acc : Display × Bool) (k : Nat) :
    blitBits x0 y row acc (k + 1) = blitBit x0 y row (blitBits x0 y row acc k) k := by
  simp [blitBits, List.range_succ]

/-- A cell that no bit falls on is left alone. -/
theorem cellAt_blitBits_other (x0 y : Nat) (row : Byte) (acc : Display × Bool) {k : Nat} {px : Fin 64} {py : Fin 32}
    (h : ∀ c, c < k → ¬ (px = Fin.ofNat 64 (x0 + c) ∧ py = Fin.ofNat 32 y)) :
    cellAt (blitBits x0 y row acc k).1 px py = cellAt acc.1 px py := by
  induction k with
  | zero => rfl
  | succ k ih =>
    rw [blitBits_succ, cellAt_blitBit, ih fun c hc => h c (by omega), decide_eq_false (h k (by omega)),
      Bool.and_false, Bool.xor_false]

/-- A cell that a bit falls on is XORed with it. -/
theorem cellAt_blitBits_same (x0 y : Nat) (row : Byte) (acc : Display × Bool) {k c : Nat} (hk : k ≤ 8) (hc : c < k) :
    cellAt (blitBits x0 y row acc k).1 (Fin.ofNat 64 (x0 + c)) (Fin.ofNat 32 y) =
      (cellAt acc.1 (Fin.ofNat 64 (x0 + c)) (Fin.ofNat 32 y) ^^ row.getLsbD (7 - c)) := by
  induction k with
  | zero => omega
  | succ k ih =>
    rw [blitBits_succ, cellAt_blitBit]
    by_cases heq : c = k
    · subst heq
      rw [cellAt_blitBits_other]
      · simp
      · rintro e he ⟨h, -⟩
        have := ofNat64_inj (by omega) (by omega) h
        omega
    · have hne : ¬ (Fin.ofNat 64 (x0 + c) = Fin.ofNat 64 (x0 + k) ∧ Fin.ofNat 32 y = Fin.ofNat 32 y) := fun h =>
        heq (ofNat64_inj (by omega) (by omega) h.1)
      rw [ih (by omega) (by omega), decide_eq_false hne, Bool.and_false, Bool.xor_false]

/-- A row collides when one of its set bits falls on a cell that is on. -/
theorem blitBits_hit (x0 y : Nat) (row : Byte) (acc : Display × Bool) {k : Nat} (hk : k ≤ 8) :
    (blitBits x0 y row acc k).2 = true ↔ acc.2 = true ∨ ∃ c, c < k ∧ row.getLsbD (7 - c) = true ∧
      cellAt acc.1 (Fin.ofNat 64 (x0 + c)) (Fin.ofNat 32 y) = true := by
  induction k with
  | zero => simp [blitBits]
  | succ k ih =>
    rw [blitBits_succ, blitBit_hit, cellAt_blitBits_other, Bool.or_eq_true, ih (by omega), Bool.and_eq_true]
    · constructor
      · rintro ((h | ⟨c, hc, h⟩) | h)
        · exact .inl h
        · exact .inr ⟨c, by omega, h⟩
        · exact .inr ⟨k, by omega, h⟩
      · rintro (h | ⟨c, hc, h⟩)
        · exact .inl (.inl h)
        · by_cases heq : c = k
          · exact .inr (heq ▸ h)
          · exact .inl (.inr ⟨c, by omega, h⟩)
    · rintro e he ⟨h, -⟩
      have := ofNat64_inj (by omega) (by omega) h
      omega

/-! ## The whole sprite -/

theorem blitRow_eq (x0 y : Nat) (row : Byte) (acc : Display × Bool) : blitRow x0 y row acc = blitBits x0 y row acc 8 :=
  rfl

/-- A cell that no sprite bit falls on is left alone. -/
theorem cellAt_blitRows_other (x0 : Nat) {y : Nat} {rows : List Byte} (acc : Display × Bool) {px : Fin 64}
    {py : Fin 32}
    (h : ∀ r c, r < rows.length → c < 8 → ¬ (px = Fin.ofNat 64 (x0 + c) ∧ py = Fin.ofNat 32 (y + r))) :
    cellAt (blitRows x0 y rows acc).1 px py = cellAt acc.1 px py := by
  induction rows generalizing y acc with
  | nil => rfl
  | cons row rows ih =>
    rw [blitRows, ih, blitRow_eq, cellAt_blitBits_other]
    · exact fun c hc => h 0 c (by simp) hc
    · intro r c hr hc
      rw [show y + 1 + r = y + (r + 1) by omega]
      exact h (r + 1) c (by simpa using hr) hc

/-- A cell that a sprite bit falls on is XORed with it. -/
theorem cellAt_blitRows_same (x0 : Nat) {y r c : Nat} {rows : List Byte} (acc : Display × Bool)
    (hn : rows.length ≤ 32) (hr : r < rows.length) (hc : c < 8) :
    cellAt (blitRows x0 y rows acc).1 (Fin.ofNat 64 (x0 + c)) (Fin.ofNat 32 (y + r)) =
      (cellAt acc.1 (Fin.ofNat 64 (x0 + c)) (Fin.ofNat 32 (y + r)) ^^ rows[r].getLsbD (7 - c)) := by
  induction rows generalizing y r acc with
  | nil => simp at hr
  | cons row rows ih =>
    simp only [List.length_cons] at hn hr
    rw [blitRows]
    cases r with
    | zero =>
      rw [cellAt_blitRows_other, blitRow_eq]
      · exact cellAt_blitBits_same x0 y row acc (by omega) hc
      · rintro e _ he _ ⟨-, h⟩
        rw [show y + 1 + e = y + (e + 1) by omega] at h
        have := ofNat32_inj (by omega) (by omega) h
        omega
    | succ r =>
      have := ih (y := y + 1) (r := r) (blitRow x0 y row acc) (by omega) (by omega)
      rw [show y + 1 + r = y + (r + 1) by omega] at this
      rw [this, blitRow_eq, cellAt_blitBits_other]
      · rfl
      · rintro e _ ⟨-, h⟩
        have := ofNat32_inj (c := r + 1) (e := 0) (by omega) (by omega) h
        omega

/-- A sprite collides when one of its set bits falls on a cell that is on before the draw. -/
theorem blitRows_hit (x0 : Nat) {y : Nat} {rows : List Byte} (acc : Display × Bool) (hn : rows.length ≤ 32) :
    (blitRows x0 y rows acc).2 = true ↔ acc.2 = true ∨ ∃ r c, ∃ h : r < rows.length, c < 8 ∧
      rows[r].getLsbD (7 - c) = true ∧ cellAt acc.1 (Fin.ofNat 64 (x0 + c)) (Fin.ofNat 32 (y + r)) = true := by
  induction rows generalizing y acc with
  | nil => simp [blitRows]
  | cons row rows ih =>
    simp only [List.length_cons] at hn
    have keep : ∀ r c, r < rows.length →
        cellAt (blitRow x0 y row acc).1 (Fin.ofNat 64 (x0 + c)) (Fin.ofNat 32 (y + 1 + r)) =
          cellAt acc.1 (Fin.ofNat 64 (x0 + c)) (Fin.ofNat 32 (y + (r + 1))) := by
      intro r c hr
      rw [blitRow_eq, cellAt_blitBits_other, show y + 1 + r = y + (r + 1) by omega]
      rintro e _ ⟨-, h⟩
      rw [show y + 1 + r = y + (r + 1) by omega] at h
      have := ofNat32_inj (c := r + 1) (e := 0) (by omega) (by omega) h
      omega
    rw [blitRows, ih _ (by omega), blitRow_eq, blitBits_hit _ _ _ _ (by omega), ← blitRow_eq]
    constructor
    · rintro ((h | ⟨c, hc, h⟩) | ⟨r, c, hr, hc, hb, h⟩)
      · exact .inl h
      · exact .inr ⟨0, c, by simp, hc, h⟩
      · rw [keep r c hr] at h
        exact .inr ⟨r + 1, c, by simpa using hr, hc, by simpa using hb, h⟩
    · rintro (h | ⟨r, c, hr, hc, hb, h⟩)
      · exact .inl (.inl h)
      · cases r with
        | zero => exact .inl (.inr ⟨c, hc, hb, h⟩)
        | succ r =>
          have hr' : r < rows.length := by simpa using hr
          exact .inr ⟨r, c, hr', hc, by simpa using hb, by rw [keep r c hr']; exact h⟩

end Sys2Proof.Machine
end

