-- ==== Sys2Proof/Laws/Exec.lean ====
section
/-! SUPPORT. What an instruction can do, said once: it raises, or its effect is the one of its shape.  A later proof
cites `exec_effect` instead of unfolding a meaning. -/

namespace Sys2Proof.Machine

/-- The effect of an instruction that does not raise, for the instructions that can raise or wait; the others answer
one next state, by definition. -/
def Effect (i : Instr) (s t : State) : Prop :=
  match i with
  | .ret => ∃ v rest, s.stack = v :: rest ∧ t = { s with stack := rest, pc := v }
  | .call nnn => s.sp ≠ stackDepth ∧ t = { s with stack := s.pc :: s.stack, pc := addrOperand nnn }
  | .drw x y n => ∃ rows, readBlock s.base n s = .ok rows ∧ t = drawRows x y rows s
  | .skp x => ∃ h : (s.reg x).toNat < 16, t = s.skipIf s.keys[(s.reg x).toNat]
  | .sknp x => ∃ h : (s.reg x).toNat < 16, t = s.skipIf (!s.keys[(s.reg x).toNat])
  | .ldVxK x =>
    (lowestPressed s = none ∧ t = s.setPc (s.pc - 2)) ∨
      ∃ k, lowestPressed s = some k ∧ t = s.setReg x (BitVec.ofNat 8 k.val)
  | .ldB x => writeBlock s.base (bcdDigits (s.reg x)) s = .ok t
  | .ldMemVx x => ∃ u, writeBlock s.base (s.regsUpTo x) s = .ok u ∧ t = u.bumpI x
  | .ldVxMem x => ∃ bs, readBlock s.base (x.val + 1) s = .ok bs ∧ t = (s.loadRegs bs).bumpI x
  | i => exec i s = .next t

/-- An instruction raises, or has its effect. -/
theorem exec_effect {i : Instr} {s t : State} (h : exec i s = .next t) :
    (∃ k, t = raise k s.pc0 s) ∨ Effect i s t := by
  cases i
  case ret =>
    rcases complete_cases h with h | ⟨k, -, rfl⟩
    · rcases pop_cases (s := s) rfl with ⟨-, hp⟩ | ⟨v, rest, hs, hp⟩ <;> rw [hp] at h <;> simp [Except.map] at h
      exact .inr ⟨v, rest, hs, h.symm⟩
    · exact .inl ⟨k, rfl⟩
  case call nnn =>
    rcases complete_cases h with h | ⟨k, -, rfl⟩
    · rcases push_cases (s := s) (v := s.pc) rfl with ⟨-, hp⟩ | ⟨hn, hp⟩ <;> rw [hp] at h <;> simp [Except.map] at h
      exact .inr ⟨hn, h.symm⟩
    · exact .inl ⟨k, rfl⟩
  case drw x y n =>
    rcases complete_cases h with h | ⟨k, -, rfl⟩
    · cases hb : readBlock s.base n s <;> rw [hb] at h <;> simp [Except.map] at h
      exact .inr ⟨_, hb, h.symm⟩
    · exact .inl ⟨k, rfl⟩
  case skp x =>
    rcases complete_cases h with h | ⟨k, -, rfl⟩
    · rcases keyOperand_cases (k := s.reg x) (s := s) rfl with ⟨hk, hp⟩ | ⟨-, hp⟩ <;> rw [hp] at h <;>
        simp [Except.map] at h
      exact .inr ⟨hk, h.symm⟩
    · exact .inl ⟨k, rfl⟩
  case sknp x =>
    rcases complete_cases h with h | ⟨k, -, rfl⟩
    · rcases keyOperand_cases (k := s.reg x) (s := s) rfl with ⟨hk, hp⟩ | ⟨-, hp⟩ <;> rw [hp] at h <;>
        simp [Except.map] at h
      exact .inr ⟨hk, h.symm⟩
    · exact .inl ⟨k, rfl⟩
  case ldVxK x =>
    right
    simp only [exec, execLdVxK] at h
    split at h <;> injection h with h
    · exact .inl ⟨‹_›, h.symm⟩
    · exact .inr ⟨_, ‹_›, h.symm⟩
  case ldB x =>
    rcases complete_cases h with h | ⟨k, -, rfl⟩
    · exact .inr h
    · exact .inl ⟨k, rfl⟩
  case ldMemVx x =>
    rcases complete_cases h with h | ⟨k, -, rfl⟩
    · cases hb : writeBlock s.base (s.regsUpTo x) s <;> rw [hb] at h <;> simp [Except.map] at h
      exact .inr ⟨_, hb, h.symm⟩
    · exact .inl ⟨k, rfl⟩
  case ldVxMem x =>
    rcases complete_cases h with h | ⟨k, -, rfl⟩
    · cases hb : readBlock s.base (x.val + 1) s <;> rw [hb] at h <;> simp [Except.map] at h
      exact .inr ⟨_, hb, h.symm⟩
    · exact .inl ⟨k, rfl⟩
  all_goals exact .inr h

/-- The registers FX55 stores are one more than X. -/
theorem regsUpTo_length (s : State) (x : RegIdx) : (s.regsUpTo x).length = x.val + 1 := by
  have := x.isLt
  simp [State.regsUpTo]

end Sys2Proof.Machine
end

