-- ==== Sys2Proof/Laws/PerInstr.lean ====
section
/-! SUPPORT. Per-instruction lemmas: the encoding of every instruction matches the template of a row (its own) of
spec/opcode_table.json (30_encoding.md R64, R65, R74). -/

namespace Sys2Proof.Laws.OwnTemplate

/-- The encoding of `i` matches some row of the opcode map. -/
def Statement (i : Instr) : Prop := ∃ row ∈ opcodeTable, row.matches (encode i) = true

/-- A row of the table whose template an instruction's encoding matches. -/
theorem of_row {i : Instr} (k : Nat) (hk : k < opcodeTable.length)
    (h : (encode i &&& opcodeTable[k].mask).toNat = opcodeTable[k].pattern.toNat) : Statement i :=
  ⟨opcodeTable[k], List.getElem_mem hk, (matches_iff _ _).2 h⟩

theorem cls : Statement .cls := of_row 0 (by decide) (by decide)

theorem ret : Statement .ret := of_row 1 (by decide) (by decide)

theorem jp (nnn : Addr12) : Statement (.jp nnn) := of_row 2 (by decide) <| by
  show (packNNN 1 nnn &&& 0xF000).toNat = 0x1000
  rw [toNat_and_F000, toNat_packNNN _ (by decide)]
  simp; omega

theorem call (nnn : Addr12) : Statement (.call nnn) := of_row 3 (by decide) <| by
  show (packNNN 2 nnn &&& 0xF000).toNat = 0x2000
  rw [toNat_and_F000, toNat_packNNN _ (by decide)]
  simp; omega

theorem seByte (x : RegIdx) (kk : Byte) : Statement (.seByte x kk) := of_row 4 (by decide) <| by
  show (packXKK 3 x kk &&& 0xF000).toNat = 0x3000
  rw [toNat_and_F000, toNat_packXKK _ _ (by decide)]
  simp; omega

theorem sneByte (x : RegIdx) (kk : Byte) : Statement (.sneByte x kk) := of_row 5 (by decide) <| by
  show (packXKK 4 x kk &&& 0xF000).toNat = 0x4000
  rw [toNat_and_F000, toNat_packXKK _ _ (by decide)]
  simp; omega

theorem seReg (x y : RegIdx) : Statement (.seReg x y) := of_row 6 (by decide) <| by
  show (packXYN 5 x y 0 &&& 0xF00F).toNat = 0x5000
  rw [toNat_and_F00F, toNat_packXYN _ _ _ (by decide)]
  simp; omega

theorem ldByte (x : RegIdx) (kk : Byte) : Statement (.ldByte x kk) := of_row 7 (by decide) <| by
  show (packXKK 6 x kk &&& 0xF000).toNat = 0x6000
  rw [toNat_and_F000, toNat_packXKK _ _ (by decide)]
  simp; omega

theorem addByte (x : RegIdx) (kk : Byte) : Statement (.addByte x kk) := of_row 8 (by decide) <| by
  show (packXKK 7 x kk &&& 0xF000).toNat = 0x7000
  rw [toNat_and_F000, toNat_packXKK _ _ (by decide)]
  simp; omega

theorem ldReg (x y : RegIdx) : Statement (.ldReg x y) := of_row 9 (by decide) <| by
  show (packXYN 8 x y 0 &&& 0xF00F).toNat = 0x8000
  rw [toNat_and_F00F, toNat_packXYN _ _ _ (by decide)]
  simp; omega

theorem orReg (x y : RegIdx) : Statement (.orReg x y) := of_row 10 (by decide) <| by
  show (packXYN 8 x y 1 &&& 0xF00F).toNat = 0x8001
  rw [toNat_and_F00F, toNat_packXYN _ _ _ (by decide)]
  simp; omega

theorem andReg (x y : RegIdx) : Statement (.andReg x y) := of_row 11 (by decide) <| by
  show (packXYN 8 x y 2 &&& 0xF00F).toNat = 0x8002
  rw [toNat_and_F00F, toNat_packXYN _ _ _ (by decide)]
  simp; omega

theorem xorReg (x y : RegIdx) : Statement (.xorReg x y) := of_row 12 (by decide) <| by
  show (packXYN 8 x y 3 &&& 0xF00F).toNat = 0x8003
  rw [toNat_and_F00F, toNat_packXYN _ _ _ (by decide)]
  simp; omega

theorem addReg (x y : RegIdx) : Statement (.addReg x y) := of_row 13 (by decide) <| by
  show (packXYN 8 x y 4 &&& 0xF00F).toNat = 0x8004
  rw [toNat_and_F00F, toNat_packXYN _ _ _ (by decide)]
  simp; omega

theorem subReg (x y : RegIdx) : Statement (.subReg x y) := of_row 14 (by decide) <| by
  show (packXYN 8 x y 5 &&& 0xF00F).toNat = 0x8005
  rw [toNat_and_F00F, toNat_packXYN _ _ _ (by decide)]
  simp; omega

theorem shr (x y : RegIdx) : Statement (.shr x y) := of_row 15 (by decide) <| by
  show (packXYN 8 x y 6 &&& 0xF00F).toNat = 0x8006
  rw [toNat_and_F00F, toNat_packXYN _ _ _ (by decide)]
  simp; omega

theorem subn (x y : RegIdx) : Statement (.subn x y) := of_row 16 (by decide) <| by
  show (packXYN 8 x y 7 &&& 0xF00F).toNat = 0x8007
  rw [toNat_and_F00F, toNat_packXYN _ _ _ (by decide)]
  simp; omega

theorem shl (x y : RegIdx) : Statement (.shl x y) := of_row 17 (by decide) <| by
  show (packXYN 8 x y 14 &&& 0xF00F).toNat = 0x800E
  rw [toNat_and_F00F, toNat_packXYN _ _ _ (by decide)]
  simp; omega

theorem sneReg (x y : RegIdx) : Statement (.sneReg x y) := of_row 18 (by decide) <| by
  show (packXYN 9 x y 0 &&& 0xF00F).toNat = 0x9000
  rw [toNat_and_F00F, toNat_packXYN _ _ _ (by decide)]
  simp; omega

theorem ldI (nnn : Addr12) : Statement (.ldI nnn) := of_row 19 (by decide) <| by
  show (packNNN 10 nnn &&& 0xF000).toNat = 0xA000
  rw [toNat_and_F000, toNat_packNNN _ (by decide)]
  simp; omega

theorem jpV0 (nnn : Addr12) : Statement (.jpV0 nnn) := of_row 20 (by decide) <| by
  show (packNNN 11 nnn &&& 0xF000).toNat = 0xB000
  rw [toNat_and_F000, toNat_packNNN _ (by decide)]
  simp; omega

theorem rnd (x : RegIdx) (kk : Byte) : Statement (.rnd x kk) := of_row 21 (by decide) <| by
  show (packXKK 12 x kk &&& 0xF000).toNat = 0xC000
  rw [toNat_and_F000, toNat_packXKK _ _ (by decide)]
  simp; omega

theorem drw (x y : RegIdx) (n : Nat) : Statement (.drw x y n) := of_row 22 (by decide) <| by
  show (packXYN 13 x y n &&& 0xF000).toNat = 0xD000
  rw [toNat_and_F000, toNat_packXYN _ _ _ (by decide)]
  simp; omega

theorem skp (x : RegIdx) : Statement (.skp x) := of_row 23 (by decide) <| by
  show (packXKK 14 x 158 &&& 0xF0FF).toNat = 0xE09E
  rw [toNat_and_F0FF, toNat_packXKK _ _ (by decide)]
  simp; omega

theorem sknp (x : RegIdx) : Statement (.sknp x) := of_row 24 (by decide) <| by
  show (packXKK 14 x 161 &&& 0xF0FF).toNat = 0xE0A1
  rw [toNat_and_F0FF, toNat_packXKK _ _ (by decide)]
  simp; omega

theorem ldVxDt (x : RegIdx) : Statement (.ldVxDt x) := of_row 25 (by decide) <| by
  show (packXKK 15 x 7 &&& 0xF0FF).toNat = 0xF007
  rw [toNat_and_F0FF, toNat_packXKK _ _ (by decide)]
  simp; omega

theorem ldVxK (x : RegIdx) : Statement (.ldVxK x) := of_row 26 (by decide) <| by
  show (packXKK 15 x 10 &&& 0xF0FF).toNat = 0xF00A
  rw [toNat_and_F0FF, toNat_packXKK _ _ (by decide)]
  simp; omega

theorem ldDtVx (x : RegIdx) : Statement (.ldDtVx x) := of_row 27 (by decide) <| by
  show (packXKK 15 x 21 &&& 0xF0FF).toNat = 0xF015
  rw [toNat_and_F0FF, toNat_packXKK _ _ (by decide)]
  simp; omega

theorem ldStVx (x : RegIdx) : Statement (.ldStVx x) := of_row 28 (by decide) <| by
  show (packXKK 15 x 24 &&& 0xF0FF).toNat = 0xF018
  rw [toNat_and_F0FF, toNat_packXKK _ _ (by decide)]
  simp; omega

theorem addI (x : RegIdx) : Statement (.addI x) := of_row 29 (by decide) <| by
  show (packXKK 15 x 30 &&& 0xF0FF).toNat = 0xF01E
  rw [toNat_and_F0FF, toNat_packXKK _ _ (by decide)]
  simp; omega

theorem ldF (x : RegIdx) : Statement (.ldF x) := of_row 30 (by decide) <| by
  show (packXKK 15 x 41 &&& 0xF0FF).toNat = 0xF029
  rw [toNat_and_F0FF, toNat_packXKK _ _ (by decide)]
  simp; omega

theorem ldB (x : RegIdx) : Statement (.ldB x) := of_row 31 (by decide) <| by
  show (packXKK 15 x 51 &&& 0xF0FF).toNat = 0xF033
  rw [toNat_and_F0FF, toNat_packXKK _ _ (by decide)]
  simp; omega

theorem ldMemVx (x : RegIdx) : Statement (.ldMemVx x) := of_row 32 (by decide) <| by
  show (packXKK 15 x 85 &&& 0xF0FF).toNat = 0xF055
  rw [toNat_and_F0FF, toNat_packXKK _ _ (by decide)]
  simp; omega

theorem ldVxMem (x : RegIdx) : Statement (.ldVxMem x) := of_row 33 (by decide) <| by
  show (packXKK 15 x 101 &&& 0xF0FF).toNat = 0xF065
  rw [toNat_and_F0FF, toNat_packXKK _ _ (by decide)]
  simp; omega

end Sys2Proof.Laws.OwnTemplate
end

