-- ==== Sys2Proof/Laws/Ports.lean ====
section
/-! SUPPORT. The debug level commutes with the shared operations (spec 60_exceptions.md R132, R135); which cell an
element of the display snapshot is (R128, R129). -/

namespace Sys2Proof.Machine

theorem readBlock_setDebugLevel (l a n : Nat) (s : State) : readBlock a n (setDebugLevel l s) = readBlock a n s := by
  induction n generalizing a with
  | zero => rfl
  | succ n ih => simp only [readBlock, ih]; rfl

theorem writeBlock_setDebugLevel (l a : Nat) (bs : List Byte) (s : State) :
    writeBlock a bs (setDebugLevel l s) = (writeBlock a bs s).map (setDebugLevel l) := by
  induction bs generalizing a s with
  | nil => rfl
  | cons b bs ih =>
    simp only [writeBlock, memWrite]
    by_cases h1 : a > 0xFFF
    · simp [h1, Except.map]
    · by_cases h2 : a < 0x200
      · simp [h1, h2, Except.map]
      · simp only [if_neg h1, if_neg h2]
        exact ih (a + 1) (s.writeByte a b)

theorem skipIf_setDebugLevel (l : Nat) (s : State) (c : Bool) :
    (setDebugLevel l s).skipIf c = setDebugLevel l (s.skipIf c) := by cases c <;> rfl

theorem bumpI_setDebugLevel (l : Nat) (s : State) (x : RegIdx) :
    (setDebugLevel l s).bumpI x = setDebugLevel l (s.bumpI x) := by
  by_cases h : s.cfg.quirkMemIncrementI = true
  · simp only [State.bumpI, if_pos h, if_pos (show (setDebugLevel l s).cfg.quirkMemIncrementI = true from h)]; rfl
  · simp only [State.bumpI, if_neg h, if_neg (show ¬ (setDebugLevel l s).cfg.quirkMemIncrementI = true from h)]

theorem logicFlag_setDebugLevel (l : Nat) (s : State) :
    (setDebugLevel l s).logicFlag = setDebugLevel l s.logicFlag := by
  by_cases h : s.cfg.quirkLogicVfReset = true
  · simp only [State.logicFlag, if_pos h, if_pos (show (setDebugLevel l s).cfg.quirkLogicVfReset = true from h)]; rfl
  · simp only [State.logicFlag, if_neg h, if_neg (show ¬ (setDebugLevel l s).cfg.quirkLogicVfReset = true from h)]

/-! ## Row-major order -/

/-- An element of a concatenation of blocks of one length. -/
theorem getElem?_flatMap_block {α β : Type} {f : α → List β} {k : Nat} (hk : ∀ a, (f a).length = k) (l : List α)
    {i j : Nat} (hj : j < k) : (l.flatMap f)[k * i + j]? = l[i]?.bind fun a => (f a)[j]? := by
  induction l generalizing i with
  | nil => simp
  | cons a l ih =>
    rw [List.flatMap_cons]
    cases i with
    | zero => rw [Nat.mul_zero, Nat.zero_add, List.getElem?_append_left (by rw [hk]; exact hj)]; rfl
    | succ i =>
      rw [List.getElem?_append_right (by rw [hk, Nat.mul_succ]; omega), hk,
        show k * (i + 1) + j - k = k * i + j by rw [Nat.mul_succ]; omega, ih]
      rfl

/-- The length of a concatenation of blocks of one length. -/
theorem length_flatMap_block {α β : Type} {f : α → List β} {k : Nat} (hk : ∀ a, (f a).length = k) (l : List α) :
    (l.flatMap f).length = k * l.length := by
  induction l with
  | nil => simp
  | cons a l ih => rw [List.flatMap_cons, List.length_append, hk, ih, List.length_cons, Nat.mul_succ, Nat.add_comm]

theorem cellBytes_length (cfg : Config) (on : Bool) : (cellBytes cfg on).length = 4 := by cases on <;> rfl

theorem displaySnapshot_length (s : State) : (displaySnapshot s).length = 2048 := by
  rw [displaySnapshot, length_flatMap_block (k := 64) (fun row => by simp)]
  simp

/-- Cell (x, y) is element `64 y + x` of the snapshot (R29). -/
theorem displaySnapshot_cell (s : State) (x : Fin 64) (y : Fin 32) :
    (displaySnapshot s)[64 * y.val + x.val]? = some (cellAt s.disp x y) := by
  rw [displaySnapshot, getElem?_flatMap_block (k := 64) (fun row => by simp) _ x.isLt]
  simp [cellAt]

end Sys2Proof.Machine
end

