-- ==== Sys2Proof/Tests/Slice0.lean ====
section
/-! SUPPORT. The tests: what WellFormed refuses; the decoding of every constructor, from words written out from the
templates of spec 30_encoding.md R65; one step each from spec 95_test_vectors.md (its W and V names are in the test
names); and a witness for the hypotheses of each statement of Obligations.lean. -/

namespace Sys2Proof.Tests

open Sys2Proof Sys2Proof.Machine

/-! ## Helpers -/

/-- A concrete configuration: the defaults of R8, the timer parameters of W3, two colours. -/
def cfgT : Config where
  font := defaultFont
  cycleUnit := 1
  tickPeriod := 1000
  quirkShiftVy := false
  quirkLogicVfReset := false
  quirkMemIncrementI := false
  onColor := ⟨0xFF, 0xFE, 0xFD, 0xFC⟩
  offColor := ⟨0, 1, 2, 3⟩

/-- A runnable core with the empty program. -/
def live : State := { State.constructed cfgT with runnable := true }

/-- `live` under all three quirks. -/
def liveQuirks : State :=
  { live with cfg := { cfgT with quirkShiftVy := true, quirkLogicVfReset := true, quirkMemIncrementI := true } }

/-- A state with the instruction word `w` at `PC`, after the change `f`. -/
def start (w : Nat) (f : State → State) : State := (f live).withFetchWord 16 w

/-- A halted core. -/
def halted : State := { live with fault := some ⟨.stackUnderflow, 0x200⟩ }

/-- A live core whose `PC` is past the last word. -/
def atTop : State := live.setPc 0xFFF

/-- The property holds of the state after one step. -/
def check (s : State) (p : State → Bool) : Bool :=
  match step s with
  | .next t => p t
  | .fault _ => false
  | .refused _ => false

/-- The property holds of the state `exec` answers. -/
def execCheck (i : Instr) (s : State) (p : State → Bool) : Bool :=
  match exec i s with
  | .next t => p t
  | .fault _ => false
  | .refused _ => false

theorem exists_of_check {s : State} {p : State → Bool} (h : check s p = true) :
    ∃ t, step s = .next t ∧ p t = true := by
  unfold check at h
  split at h
  · exact ⟨_, ‹_›, h⟩
  · exact absurd h (by simp)
  · exact absurd h (by simp)

theorem exists_of_execCheck {i : Instr} {s : State} {p : State → Bool} (h : execCheck i s p = true) :
    ∃ t, exec i s = .next t ∧ p t = true := by
  unfold execCheck at h
  split at h
  · exact ⟨_, ‹_›, h⟩
  · exact absurd h (by simp)
  · exact absurd h (by simp)

/-! ## Well-formedness -/

theorem test_wellFormed_accepts_15_rows : (Instr.drw 15 15 15).wellFormed = true := by decide

theorem test_wellFormed_refuses_16_rows : (Instr.drw 0 0 16).wellFormed = false := by decide

/-- The only check of WellFormed is this one: R63's row count is four bits. -/
theorem test_rowCountFits_refuses_16 : rowCountFits 16 = false ∧ rowCountFits 15 = true := by decide

/-! ## Decoding: every constructor by a word from its template (R65) -/

theorem test_decode_control :
    decode 0x00EE = .ok .ret ∧ decode 0x1ABC = .ok (.jp 0xABC) ∧ decode 0x2400 = .ok (.call 0x400) ∧
    decode 0x3210 = .ok (.seByte 2 0x10) ∧ decode 0x4210 = .ok (.sneByte 2 0x10) ∧
    decode 0x5120 = .ok (.seReg 1 2) ∧ decode 0x9120 = .ok (.sneReg 1 2) ∧ decode 0xB520 = .ok (.jpV0 0x520) := by
  decide

theorem test_decode_loads_and_logic :
    decode 0x6A42 = .ok (.ldByte 10 0x42) ∧ decode 0x7320 = .ok (.addByte 3 0x20) ∧
    decode 0x8150 = .ok (.ldReg 1 5) ∧ decode 0x8121 = .ok (.orReg 1 2) ∧ decode 0x8122 = .ok (.andReg 1 2) ∧
    decode 0x8123 = .ok (.xorReg 1 2) := by decide

theorem test_decode_arithmetic :
    decode 0x8344 = .ok (.addReg 3 4) ∧ decode 0x8015 = .ok (.subReg 0 1) ∧ decode 0x8476 = .ok (.shr 4 7) ∧
    decode 0x8017 = .ok (.subn 0 1) ∧ decode 0x8FFE = .ok (.shl 15 15) ∧ decode 0xC50F = .ok (.rnd 5 0x0F) := by decide

theorem test_decode_display : decode 0x00E0 = .ok .cls ∧ decode 0xD015 = .ok (.drw 0 1 5) := by decide

theorem test_decode_keys_and_timers :
    decode 0xE19E = .ok (.skp 1) ∧ decode 0xE1A1 = .ok (.sknp 1) ∧ decode 0xF207 = .ok (.ldVxDt 2) ∧
    decode 0xF30A = .ok (.ldVxK 3) ∧ decode 0xF215 = .ok (.ldDtVx 2) ∧ decode 0xF218 = .ok (.ldStVx 2) := by decide

theorem test_decode_index_and_memory :
    decode 0xA2F0 = .ok (.ldI 0x2F0) ∧ decode 0xF41E = .ok (.addI 4) ∧ decode 0xFA29 = .ok (.ldF 10) ∧
    decode 0xF033 = .ok (.ldB 0) ∧ decode 0xF255 = .ok (.ldMemVx 2) ∧ decode 0xF465 = .ok (.ldVxMem 4) := by decide

/-- `DRW V0, V1, 5` bit by bit: G = 1101, X = 0000, Y = 0001, N = 0101 (R62, R65 row 23). -/
theorem test_decode_bits : decode 0b1101000000010101 = .ok (.drw 0 1 5) ∧ decode 0b1000001101000100 = .ok (.addReg 3 4) ∧
    decode 0b1111101000101001 = .ok (.ldF 10) ∧ decode 0b0001101010111100 = .ok (.jp 0xABC) := by decide

/-- V-D3 to V-D10. -/
theorem test_decode_illegal :
    [0x0000, 0x0123, 0x00E1, 0x00FF, 0x5121, 0x8008, 0x800D, 0x800F, 0x9121, 0xE09F, 0xE000, 0xEFA2, 0xF000, 0xF019,
      0xF0FF, 0xF075].all (fun w : Word => decode w == .error (.unknownOpcode w)) = true := by decide

theorem test_decodeTableWord : decodeTableWord 16 0xD015 = some (.drw 0 1 5) ∧ decodeTableWord 16 0x5121 = none ∧
    decodeTableWord 8 0xFFE0 = some .cls := by decide

theorem test_decodeBytes : decodeBytes [0x83, 0x44, 0x12] = .ok (.addReg 3 4, [0x12]) ∧
    decodeBytes [0x83] = .error .tooShort ∧ decodeBytes [0x00, 0x00] = .error (.illegal (.unknownOpcode 0)) := by decide

/-! ## Control flow (95_test_vectors.md 2.2) -/

theorem test_jp_VC1 : check (start 0x1ABC id) (fun t => t.pc == 0xABC && t.fault.isNone) = true := by decide

theorem test_call_VC3 : check (start 0x2400 id)
    (fun t => t.stackEntry 0 == some 0x202 && t.sp == 1 && t.pc == 0x400) = true := by decide

theorem test_call_VC6 : check (start 0x2400 fun s => { s.setPc 0x300 with stack := List.replicate 16 0x111 })
    (fun t => t.fault == some ⟨.stackOverflow, 0x300⟩ && t.sp == 16 && t.pc == 0x302) = true := by decide

theorem test_ret_VC4 : check (start 0x00EE fun s => { s.setPc 0x400 with stack := [0x202] })
    (fun t => t.sp == 0 && t.pc == 0x202 && t.fault.isNone) = true := by decide

theorem test_ret_VC7 : check (start 0x00EE id)
    (fun t => t.fault == some ⟨.stackUnderflow, 0x200⟩ && t.pc == 0x202) = true := by decide

theorem test_seByte_VC8_VC9 : check (start 0x3210 (·.setReg 2 0x10)) (fun t => t.pc == 0x204) = true ∧
    check (start 0x3210 (·.setReg 2 0x11)) (fun t => t.pc == 0x202) = true := by decide

theorem test_sneByte_VC10_VC11 : check (start 0x4210 (·.setReg 2 0x10)) (fun t => t.pc == 0x202) = true ∧
    check (start 0x4210 id) (fun t => t.pc == 0x204) = true := by decide

theorem test_seReg_VC12_VC13 :
    check (start 0x5120 fun s => (s.setReg 1 0x7F).setReg 2 0x7F) (fun t => t.pc == 0x204) = true ∧
    check (start 0x5120 fun s => (s.setReg 1 0x7F).setReg 2 0x80) (fun t => t.pc == 0x202) = true := by decide

theorem test_sneReg_VC15_VC16 :
    check (start 0x9120 fun s => (s.setReg 1 0x01).setReg 2 0x02) (fun t => t.pc == 0x204) = true ∧
    check (start 0x9330 (·.setReg 3 0x55)) (fun t => t.pc == 0x202) = true := by decide

theorem test_jpV0_VC19_VC20 : check (start 0xBFFF (·.setReg 0 0xFF)) (fun t => t.pc == 0x10FE) = true ∧
    check (start 0xB520 (·.setReg 5 0x40)) (fun t => t.pc == 0x520) = true := by decide

/-! ## Registers and ALU (2.3) -/

theorem test_ldByte_VA2 : check (start 0x6F00 (·.setReg 15 1)) (fun t => t.reg 15 == 0 && t.pc == 0x202) = true := by
  decide

theorem test_addByte_VA4 : check (start 0x7301 fun s => (s.setReg 3 0xFF).setReg 15 1)
    (fun t => t.reg 3 == 0 && t.reg 15 == 1) = true := by decide

theorem test_ldReg_VA6 : check (start 0x8150 (·.setReg 5 0x33)) (fun t => t.reg 1 == 0x33 && t.reg 5 == 0x33) = true := by
  decide

theorem test_orReg_VA7_VA8 :
    check (start 0x8121 fun s => ((s.setReg 1 0x0F).setReg 2 0xF0).setReg 15 7)
      (fun t => t.reg 1 == 0xFF && t.reg 15 == 7) = true ∧
    check (start 0x8121 fun _ => ((liveQuirks.setReg 1 0x0F).setReg 2 0xF0).setReg 15 7)
      (fun t => t.reg 1 == 0xFF && t.reg 15 == 0) = true := by decide

theorem test_andReg_VA9 : check (start 0x8122 fun s => (s.setReg 1 0x3C).setReg 2 0x0F)
    (fun t => t.reg 1 == 0x0C) = true := by decide

theorem test_xorReg_VA10 : check (start 0x8123 fun s => (s.setReg 1 0x3C).setReg 2 0x0F)
    (fun t => t.reg 1 == 0x33) = true := by decide

theorem test_addReg_W1_VA15 :
    check (start 0x8014 fun s => (s.setReg 0 0xFF).setReg 1 1) (fun t => t.reg 0 == 0 && t.reg 15 == 1) = true ∧
    check (start 0x8F14 fun s => (s.setReg 15 0xFF).setReg 1 1) (fun t => t.reg 15 == 1) = true := by decide

theorem test_subReg_W1_VA19 :
    check (start 0x8015 fun s => (s.setReg 0 1).setReg 1 2) (fun t => t.reg 0 == 0xFF && t.reg 15 == 0) = true ∧
    check (start 0x8015 fun s => (s.setReg 0 5).setReg 1 5) (fun t => t.reg 0 == 0 && t.reg 15 == 1) = true := by decide

theorem test_subn_W1_VA22 :
    check (start 0x8017 fun s => (s.setReg 0 2).setReg 1 1) (fun t => t.reg 0 == 0xFF && t.reg 15 == 0) = true ∧
    check (start 0x8017 fun s => (s.setReg 0 3).setReg 1 5) (fun t => t.reg 0 == 2 && t.reg 15 == 1) = true := by decide

theorem test_shr_VA25_VA26 :
    check (start 0x8476 fun s => (s.setReg 4 4).setReg 7 3) (fun t => t.reg 4 == 2 && t.reg 15 == 0) = true ∧
    check (start 0x8476 fun _ => (liveQuirks.setReg 4 4).setReg 7 3) (fun t => t.reg 4 == 1 && t.reg 15 == 1) = true := by
  decide

theorem test_shl_VA27_VA29 :
    check (start 0x840E (·.setReg 4 0x81)) (fun t => t.reg 4 == 2 && t.reg 15 == 1) = true ∧
    check (start 0x8F0E (·.setReg 15 0x81)) (fun t => t.reg 15 == 1) = true := by decide

/-- V-A32: a mask of 0 gives 0 whatever the draw. -/
theorem test_rnd_VA32 (r : Byte) : r &&& 0x00 = 0 ∧ (r &&& 0x0F).toNat < 16 := by
  refine ⟨by simp, ?_⟩
  rw [BitVec.toNat_and]
  exact Nat.lt_succ_of_le Nat.and_le_right

/-- V-A31: the register holds the masked draw, and one draw is taken. -/
theorem test_rnd_VA31 : exec (.rnd 5 0x0F) live =
    .next ({ live with drawIndex := 1 }.setReg 5 (Config.randomByte 0 &&& 0x0F)) := rfl

/-! ## Display (2.4) -/

theorem test_cls_VG1 : check (start 0x00E0 fun s => (s.setDisp (toggleCell blankDisplay 3 2)).setReg 15 9)
    (fun t => !cellAt t.disp 3 2 && t.reg 15 == 9) = true := by decide

theorem test_drw_VG2_VG5 :
    check (start 0xD011 fun s => (((s.writeByte 0x300 0x80).setI 0x300).setReg 0 70).setReg 1 34)
      (fun t => cellAt t.disp 6 2 && !cellAt t.disp 7 2 && t.reg 15 == 0) = true ∧
    check (start 0xD011 fun s => (s.writeByte 0x300 0x01).setI 0x300)
      (fun t => cellAt t.disp 7 0 && !cellAt t.disp 0 0) = true := by decide

theorem test_drw_VG7_VG9 :
    check (start 0xD013 fun s => (s.setI 0xFFE).setReg 15 7)
      (fun t => t.fault == some ⟨.addressFault 0x1000, 0x200⟩ && t.reg 15 == 7) = true ∧
    check (start 0xD011 fun s => ((s.writeByte 0x300 0xC0).setI 0x300).setDisp (toggleCell blankDisplay 1 0))
      (fun t => cellAt t.disp 0 0 && !cellAt t.disp 1 0 && t.reg 15 == 1) = true := by decide

/-! ## Keyboard and timers (2.5) -/

theorem test_skp_VK1_VK5 :
    check (start 0xE19E fun s => { s.setReg 1 10 with keys := s.keys.set 10 true }) (fun t => t.pc == 0x204) = true ∧
    check (start 0xE19E (·.setReg 1 0x10))
      (fun t => t.fault == some ⟨.keyIndexFault 0x10, 0x200⟩ && t.pc == 0x202) = true := by decide

theorem test_sknp_VK3_VK4 :
    check (start 0xE1A1 (·.setReg 1 10)) (fun t => t.pc == 0x204) = true ∧
    check (start 0xE1A1 fun s => { s.setReg 1 10 with keys := s.keys.set 10 true }) (fun t => t.pc == 0x202) = true := by
  decide

theorem test_ldVxK_VK7_VK8 :
    check (start 0xF30A (·.setPc 0x210)) (fun t => t.pc == 0x210 && t.reg 3 == 0 && t.accD == 1) = true ∧
    check (start 0xF30A fun s => { s.setPc 0x210 with keys := (s.keys.set 9 true).set 3 true })
      (fun t => t.pc == 0x212 && t.reg 3 == 3) = true := by decide

theorem test_ldVxDt_VT1 : check (start 0xF207 (·.setDt 0x3C)) (fun t => t.reg 2 == 0x3C) = true := by decide

/-- The read sees the tick of its own cycle (R103). -/
theorem test_ldVxDt_after_tick : check (start 0xF207 fun s => { s.setDt 5 with accD := 1000, accS := 1000 })
    (fun t => t.reg 2 == 4 && t.accD == 1) = true := by decide

theorem test_ldDtVx_VT2 : check (start 0xF215 (·.setReg 2 0x3C)) (fun t => t.dt == 0x3C && t.accD == 1) = true := by
  decide

theorem test_ldStVx_VT3 : check (start 0xF218 (·.setReg 2 1)) (fun t => t.st == 1 && shouldBeep t) = true := by decide

/-- V-T6: the accumulators and decrements of seven ticks with unit 3 and period 5. -/
theorem test_tick_VT6 : (List.range 8).map (fun n => (decrementCount { cfgT with cycleUnit := 3, tickPeriod := 5 } n)) =
    [0, 0, 1, 1, 2, 2, 3, 4] ∧ decrementCount cfgT 6000 = 5 ∧ decrementCount cfgT 6001 = 6 := by decide

/-- V-T7, V-T8. -/
theorem test_tick_VT7_VT8 : (tickTimer cfgT 1000 0 = (1, 0)) ∧ tickTimer cfgT 1000 1 = (1, 0) ∧
    tickTimer cfgT 999 1 = (1000, 1) := by decide

/-! ## Address register and memory (2.6) -/

theorem test_ldI_VM0 : check (start 0xA2F0 id) (fun t => t.i == 0x2F0) = true := by decide

theorem test_addI_VM15 : check (start 0xF41E fun s => ((s.setI 0xFFFF).setReg 4 1).setReg 15 5)
    (fun t => t.i == 0 && t.reg 15 == 5) = true := by decide

theorem test_ldF_VM17_VM19 : check (start 0xFA29 (·.setReg 10 10)) (fun t => t.i == 0x32) = true ∧
    check (start 0xF029 (·.setReg 0 0xFF)) (fun t => t.i == 0x4FB) = true := by decide

theorem test_ldB_VM3 : check (start 0xF033 fun s => (s.setReg 0 231).setI 0xFFD)
    (fun t => t.readByte 0xFFD == 2 && t.readByte 0xFFE == 3 && t.readByte 0xFFF == 1 && t.i == 0xFFD) = true := by
  decide

theorem test_ldB_VM1_VM2 :
    check (start 0xF033 fun s => (s.setReg 0 231).setI 0x1FF)
      (fun t => t.fault == some ⟨.reservedWriteFault 0x1FF, 0x200⟩ && t.readByte 0x201 == 0x33) = true ∧
    check (start 0xF033 fun s => (s.setReg 0 231).setI 0xFFE)
      (fun t => t.fault == some ⟨.addressFault 0x1000, 0x200⟩ && t.readByte 0xFFE == 0) = true := by decide

theorem test_ldMemVx_VM6_VM7 :
    check (start 0xF255 fun s => (((s.setReg 0 0x11).setReg 1 0x22).setReg 2 0x33).setI 0x400)
      (fun t => t.readByte 0x400 == 0x11 && t.readByte 0x402 == 0x33 && t.readByte 0x403 == 0 && t.i == 0x400) = true ∧
    check (start 0xF255 fun _ => (liveQuirks.setReg 1 0x22).setI 0x400)
      (fun t => t.readByte 0x401 == 0x22 && t.i == 0x403) = true := by decide

theorem test_ldMemVx_VM9_VM10 :
    check (start 0xFF55 fun s => (s.setI 0xFF1).setReg 0 9)
      (fun t => t.fault == some ⟨.addressFault 0x1000, 0x200⟩ && t.readByte 0xFF1 == 0) = true ∧
    check (start 0xF055 (·.setI 0x1F0)) (fun t => t.fault == some ⟨.reservedWriteFault 0x1F0, 0x200⟩) = true := by decide

theorem test_ldVxMem_VM12 : check (start 0xF465 id) (fun t => t.reg 0 == 0xF0 && t.reg 1 == 0x90 && t.reg 4 == 0xF0 &&
    t.reg 5 == 0 && t.i == 0) = true := by decide

theorem test_ldVxMem_VM13 : check (start 0xF165 fun s => (s.setI 0xFFF).setReg 1 7)
    (fun t => t.fault == some ⟨.addressFault 0x1000, 0x200⟩ && t.reg 1 == 7) = true := by decide

/-! ## The cycle, faults and ports (2.1, 2.7) -/

/-- V-F1. -/
theorem test_fetch_VF1 : check (start 0x1200 (·.setPc 0xFFE)) (fun t => t.pc == 0x200 && t.fault.isNone) = true := by decide

/-- V-F2: the tick stays, `PC` stays. -/
theorem test_fetch_VF2 : check atTop
    (fun t => t.fault == some ⟨.fetchFault 0xFFF, 0xFFF⟩ && t.pc == 0xFFF && t.accD == 1) = true := by decide

/-- V-F4: no alignment. -/
theorem test_fetch_VF4 : check (start 0x6A05 (·.setPc 0x201)) (fun t => t.reg 10 == 5 && t.pc == 0x203) = true := by
  decide

/-- V-D3: an illegal word. -/
theorem test_illegal_VD3 : check live
    (fun t => t.fault == some ⟨.unknownOpcode 0, 0x200⟩ && t.pc == 0x202 && t.accS == 1) = true := by decide

/-- V-X5: the tick of a faulting cycle stays. -/
theorem test_fault_VX5 : check (start 0x00EE fun s => { s.setDt 5 with
      accD := 1, accS := 1, cfg := { cfgT with cycleUnit := 1, tickPeriod := 1 } })
    (fun t => t.dt == 4 && t.pc == 0x202 && t.fault.isSome) = true := by decide

/-- V-X1, V-X2. -/
theorem test_idle_VX1_VX2 : executeCycle (State.constructed cfgT) = .next (.notRunnable, State.constructed cfgT) ∧
    executeCycle halted = .next (.halted ⟨.stackUnderflow, 0x200⟩, halted) := ⟨rfl, rfl⟩

/-- W4's ROM, one cycle after the load. -/
theorem test_load_W4 : (load (.bytes [0x00, 0xE0, 0x12, 0x00]) State.reset).1 = .ok ∧
    check (load (.bytes [0x00, 0xE0, 0x12, 0x00]) (State.constructed cfgT)).2
      (fun t => t.pc == 0x202 && t.fault.isNone && t.readByte 0x202 == 0x12) = true := by decide

/-- W7: the limit of the ROM size. -/
theorem test_load_W7 (rom : List Byte) : (rom.length = 3585 → load (.bytes rom) halted = (.romTooLarge, halted)) ∧
    (rom.length = 3584 → (load (.bytes rom) halted).1 = .ok) ∧ load .unreadable halted = (.ioError, halted) := by
  refine ⟨fun h => ?_, fun h => ?_, rfl⟩ <;> simp [load, romMax, h]

/-- V-K10, V-K11. -/
theorem test_updateKey_VK10_VK11 : (updateKey 5 true live).2.keys[5] = true ∧ (updateKey 16 true live).1 = .invalid := by
  decide

/-- V-X7. -/
theorem test_renderInto_VX7 : renderInto [] live = (.invalid, []) := by decide

/-- R132, R135: silent at level 0; registers, stack and opcode at 1; memory and display too from 2 on. -/
theorem test_traceItems : traceItems 0x6A42 live = none ∧
    (traceItems 0x6A42 (setDebugLevel 1 live)).isSome = true ∧
    ((traceItems 0x6A42 (setDebugLevel 1 live)).bind (·.dump)).isNone = true ∧
    ((traceItems 0x6A42 (setDebugLevel 2 live)).bind (·.dump)).isSome = true := by decide

/-- V-X8. -/
theorem test_setDebugLevel_VX8 : (setDebugLevel 2 live).debugLevel = 2 ∧ (setDebugLevel 2 live).rngMode = .fixed ∧
    (setDebugLevel 0 live).rngMode = .fresh := by decide

/-- A program comes to run from reset by the load, for which withFetchWord stands (log 5). -/
theorem test_withFetchWord : check ((State.constructed cfgT).withFetchWord 16 0x6A42) (fun t => t.reg 10 == 0x42) = true ∧
    (State.reset.withFetchWord 16 0x6A42).pc = 0x200 ∧ (atTop.withFetchWord 16 0x6A42).pc = 0x200 := by decide

theorem test_memory_is_canonical : Memory.write cfgT (Memory.write cfgT [] 0x300 5) 0x300 0 = [] ∧
    Memory.write cfgT (Memory.write cfgT [] 0x300 5) 0x2FF 6 = [(0x2FF, 6), (0x300, 5)] ∧
    Memory.write cfgT [] 0 0xF0 = [] ∧ Memory.read cfgT [] 79 = 0x80 ∧ Memory.read cfgT [] 80 = 0 := by decide

/-! ## Witnesses: states and operands that meet the hypotheses of each statement, its clauses at their boundaries.
A statement without hypotheses has none. -/

theorem live_inv : live.Inv where
  config := by decide
  memory := Memory.wf_nil
  font := by decide
  depth := by decide
  entries := by simp [live, State.constructed]
  pc := by decide
  accEq := rfl
  accLe := by decide
  faultRunnable := by decide

/-- The invariant also holds of a halted core with a full stack, a stored byte and a `PC` at its bound. -/
theorem full_inv : State.Inv { halted with stack := List.replicate 16 0x1000, mem := [(0xFFF, 1)], pc := 0x10FE } where
  config := by decide
  memory := by decide
  font := by decide
  depth := by decide
  entries := by simp
  pc := by decide
  accEq := rfl
  accLe := by decide
  faultRunnable := by decide

theorem witness_DecodeInvertsEncode : (Instr.drw 15 15 15).wellFormed = true ∧ (Instr.shl 0 15).wellFormed = true := by
  decide

theorem witness_EncodeInvertsDecode : decode 0xDFFF = .ok (.drw 15 15 15) ∧ decode 0x00E0 = .ok .cls := by decide

theorem witness_IllegalWordsAreTheListedOnes :
    [0x0000, 0x0FFF, 0x5001, 0x5FFF, 0x9001, 0x9FFF, 0x8008, 0x8FFF, 0xE09D, 0xEFFF, 0xF006, 0xFFFF].all
      (fun w : Word => decode w == .error (.unknownOpcode w)) = true ∧ decode 0x1000 = .ok (.jp 0) := by decide

theorem witness_FetchIsBigEndian : (0xFFF : Word).toNat > 0xFFE ∧ (0xFFE : Word).toNat ≤ 0xFFE := by decide

theorem witness_MemoryPrimitives : Memory.wf live.cfg live.mem ∧ 0x1000 > 0xFFF ∧ 0xFFF ≤ 0xFFF ∧ 0x1FF < 0x200 ∧
    0x200 ≤ 0x200 ∧ (0x201 ≠ 0x200) := by decide

theorem witness_StepRunsTheDecodedInstruction :
    (State.constructed cfgT).runnable = false ∧ halted.fault ≠ none ∧
    (atTop.Live ∧ fetchWord atTop.pc (timerTick atTop) = .error (.fetchFault 0xFFF)) ∧
    ((start 0x6A42 id).Live ∧ fetchWord (start 0x6A42 id).pc (timerTick (start 0x6A42 id)) = .ok 0x6A42 ∧
      decode 0x6A42 = .ok (.ldByte 10 0x42)) ∧
    (live.Live ∧ fetchWord live.pc (timerTick live) = .ok 0 ∧ decode 0 = .error (.unknownOpcode 0)) := by decide

theorem witness_StepRunsTheDecodedInstruction_fault :
    atTop.Live ∧ ∃ t, step atTop = .next t ∧ (t.fault == some ⟨.fetchFault 0xFFF, 0xFFF⟩) = true :=
  ⟨by decide, exists_of_check (by decide)⟩

theorem witness_FaultsArePrecise :
    (∃ t, step atTop = .next t ∧ (t.fault == some ⟨.fetchFault 0xFFF, 0xFFF⟩) = true) ∧
    (live.Live ∧ ∃ t, step live = .next t ∧ (t.fault == some ⟨.unknownOpcode 0, 0x200⟩) = true) ∧
    ∃ t, step (start 0x00EE id) = .next t ∧ (t.fault == some ⟨.stackUnderflow, 0x200⟩) = true :=
  ⟨exists_of_check (by decide), ⟨by decide, exists_of_check (by decide)⟩, exists_of_check (by decide)⟩

theorem witness_FaultsAreThoseOfTheTable :
    live.fault = none ∧ (atTop.Live ∧ atTop.pc.toNat > 0xFFE) ∧
    (live.Live ∧ fetchWord live.pc live = .ok 0 ∧ decode 0 = .error (.unknownOpcode 0)) := by decide

/-- Every condition of R112's table is met by some state, at the boundary of its range. -/
theorem witness_FaultsAreThoseOfTheTable_kinds :
    faultOf .ret live = some .stackUnderflow ∧
    faultOf (.call 0) { live with stack := List.replicate 16 0 } = some .stackOverflow ∧
    faultOf (.call 0) { live with stack := List.replicate 15 0 } = none ∧
    faultOf (.drw 0 1 15) (live.setI 0xFF2) = some (.addressFault 0x1000) ∧
    faultOf (.drw 0 1 15) (live.setI 0xFF1) = none ∧ faultOf (.drw 0 1 0) (live.setI 0xFFFF) = none ∧
    faultOf (.ldB 0) (live.setI 0x1FF) = some (.reservedWriteFault 0x1FF) ∧ faultOf (.ldB 0) (live.setI 0x200) = none ∧
    faultOf (.ldMemVx 15) (live.setI 0xFF1) = some (.addressFault 0x1000) ∧
    faultOf (.ldVxMem 0) (live.setI 0x1000) = some (.addressFault 0x1000) ∧ faultOf (.ldVxMem 0) (live.setI 0xFFF) = none ∧
    faultOf (.skp 1) (live.setReg 1 16) = some (.keyIndexFault 16) ∧ faultOf (.sknp 1) (live.setReg 1 15) = none := by
  decide

theorem witness_HaltedCoreStaysHalted : halted.fault ≠ none ∧ (load (.bytes []) halted).1 = .ok ∧
    (load .unreadable halted).1 ≠ .ok ∧ 15 < 16 := by decide

theorem witness_RunnableFollowsTheLoad : construct cfgT = some (State.constructed cfgT) ∧
    (load (.bytes [1]) (State.constructed cfgT)).1 = .ok ∧ (load .unreadable live).1 ≠ .ok ∧
    (State.constructed cfgT).runnable = false := by decide

theorem witness_StepKeepsTheInvariant : live.Inv ∧ ∃ t, step live = .next t ∧ (t.pc == 0x202) = true :=
  ⟨live_inv, exists_of_check (by decide)⟩

theorem witness_ConstructionMeetsTheInvariant : construct cfgT = some (State.constructed cfgT) ∧
    construct { cfgT with cycleUnit := 0 } = none ∧ construct { cfgT with cycleUnit := 1001 } = none ∧
    (construct { cfgT with cycleUnit := 1000 }).isSome = true := by decide

theorem witness_PortsKeepTheInvariant : live.Inv := live_inv

theorem witness_TimerTickRule : 1000 + cfgT.cycleUnit > cfgT.tickPeriod ∧ 999 + cfgT.cycleUnit ≤ cfgT.tickPeriod ∧
    live.Live ∧ ¬ halted.Live := by decide

theorem witness_TimerLaw : live.cfg.Valid ∧ live.accD = 0 ∧ live.accS = 0 ∧ 1 ≤ 1 := by decide

theorem witness_AccumulatorsMoveOnlyByTickAndLoad :
    (∃ t, exec .cls live = .next t ∧ t.runnable = true) ∧
    (live.Live ∧ ∃ t, step live = .next t ∧ (t.accD == 1) = true) ∧ (¬ halted.Live ∧ step halted = .next halted) ∧
    (load .unreadable live).1 ≠ .ok ∧ (load (.bytes []) live).1 = .ok :=
  ⟨exists_of_execCheck (by decide), ⟨by decide, exists_of_check (by decide)⟩, ⟨by decide, rfl⟩, by decide, by decide⟩

theorem witness_BeepFollowsTheSoundTimer : { halted with st := 5 }.fault ≠ none ∧ { halted with st := 5 }.st ≠ 0 := by
  decide

theorem witness_OnlyCallAndReturnChangeTheStack :
    (∃ t, exec (.call 0x400) live = .next t ∧ (t.stack == [0x200]) = true) ∧
    ∃ t, exec .ret { live with stack := [0x300] } = .next t ∧ (t.stack == []) = true :=
  ⟨exists_of_execCheck (by decide), exists_of_execCheck (by decide)⟩

theorem witness_WritersOfTheAddressRegister :
    (∃ t, exec (.ldI 0x300) live = .next t ∧ (t.i != live.i) = true) ∧
    (∃ t, exec (.addI 0) (live.setReg 0 1) = .next t ∧ (t.i != live.i) = true) ∧
    (∃ t, exec (.ldF 0) (live.setReg 0 1) = .next t ∧ (t.i != live.i) = true) ∧
    (∃ t, exec (.ldMemVx 0) (liveQuirks.setI 0x200) = .next t ∧ (t.i != 0x200) = true) ∧
    ∃ t, exec (.ldVxMem 0) liveQuirks = .next t ∧ (t.i != liveQuirks.i) = true :=
  ⟨exists_of_execCheck (by decide), exists_of_execCheck (by decide), exists_of_execCheck (by decide),
    exists_of_execCheck (by decide), exists_of_execCheck (by decide)⟩

theorem witness_OnlyClearAndDrawChangeTheDisplay :
    (∃ t, exec (.drw 0 1 5) live = .next t ∧ (cellAt t.disp 0 0 != cellAt live.disp 0 0) = true) ∧
    ∃ t, exec .cls (live.setDisp (toggleCell blankDisplay 0 0)) = .next t ∧
      (cellAt t.disp 0 0 != cellAt (toggleCell blankDisplay 0 0) 0 0) = true :=
  ⟨exists_of_execCheck (by decide), exists_of_execCheck (by decide)⟩

theorem witness_OnlyStoresChangeMemory :
    (∃ t, exec (.ldB 0) ((live.setReg 0 231).setI 0x200) = .next t ∧ (t.readByte 0x202 != 0) = true) ∧
    ∃ t, exec (.ldMemVx 15) ((live.setReg 15 1).setI 0xFF0) = .next t ∧ (t.readByte 0xFFF != 0) = true :=
  ⟨exists_of_execCheck (by decide), exists_of_execCheck (by decide)⟩

theorem witness_NoStepChangesTheReservedRegion : 0x1FF < 0x200 ∧
    ∃ t, step (start 0xF033 (·.setI 0x1FF)) = .next t ∧ (t.readByte 0x1FF == 0) = true :=
  ⟨by decide, exists_of_check (by decide)⟩

theorem witness_StepLeavesHostStateAlone : ∃ t, step live = .next t ∧ (t.accD == 1) = true :=
  exists_of_check (by decide)

theorem witness_ImplicitWritersOfTheFlag :
    (∃ t, exec (.addReg 0 1) (live.setReg 15 9) = .next t ∧ (t.reg 15 != 9) = true) ∧
    (∃ t, exec (.drw 0 1 0) (live.setReg 15 9) = .next t ∧ (t.reg 15 != 9) = true) ∧
    (∃ t, exec (.orReg 0 1) (liveQuirks.setReg 15 9) = .next t ∧ (t.reg 15 != 9) = true) ∧
    (∃ t, exec (.ldByte 15 1) live = .next t ∧ (t.reg 15 != 0) = true) ∧
    (∃ t, exec (.xorReg 15 0) ((live.setReg 0 1).setReg 15 1) = .next t ∧ (t.reg 15 != 1) = true) ∧
    ∃ t, exec (.ldVxMem 15) live = .next t ∧ (t.reg 15 != 0) = true :=
  ⟨exists_of_execCheck (by decide), exists_of_execCheck (by decide), exists_of_execCheck (by decide),
    exists_of_execCheck (by decide), exists_of_execCheck (by decide), exists_of_execCheck (by decide)⟩

theorem witness_DebugLevelIsNotObservable : ∃ t, step (start 0xD015 id) = .next t ∧ (t.fault == none) = true :=
  exists_of_check (by decide)

theorem witness_ReturnPopsTheStack : live.sp = 0 ∧ 0 < { live with stack := [0x202] }.sp := by decide

theorem witness_CallPushesTheAdvancedPc : { live with stack := List.replicate 16 0 }.sp = 16 ∧
    { live with stack := List.replicate 15 0 }.sp ≠ 16 ∧ live.sp ≠ 16 := by decide

theorem witness_LogicOperations : liveQuirks.cfg.quirkLogicVfReset = true ∧ live.cfg.quirkLogicVfReset = false ∧
    (14 : RegIdx) ≠ 15 ∧ 7 < 8 := by decide

theorem witness_AddSetsTheCarry : (14 : RegIdx) ≠ 15 ∧ (0 : RegIdx) ≠ 14 ∧ (0 : RegIdx) ≠ 15 := by decide

theorem witness_SubtractionsSetNotBorrow :
    (((live.setReg 0 5).setReg 1 5).reg 0).toNat ≥ (((live.setReg 0 5).setReg 1 5).reg 1).toNat ∧
    (live.reg 0).toNat < ((live.setReg 1 0xFF).reg 1).toNat := by decide

theorem witness_ShiftsSetTheShiftedOutBit :
    (3 : Byte) = (if (liveQuirks.setReg 7 3).cfg.quirkShiftVy = true then (liveQuirks.setReg 7 3).reg 7
      else (liveQuirks.setReg 7 3).reg 4) ∧
    (4 : Byte) = (if (live.setReg 4 4).cfg.quirkShiftVy = true then (live.setReg 4 4).reg 7
      else (live.setReg 4 4).reg 4) := by decide

theorem witness_DrawXorsTheSprite : 15 ≤ 15 ∧ (0 < 15 ∧ (live.setI 0xFF2).i.toNat + 15 > 0x1000) ∧
    ((live.setI 0xFF1).i.toNat + 15 ≤ 0x1000) ∧ 14 < 15 ∧ 7 < 8 := by decide

theorem witness_RedrawRestoresTheDisplay : 5 ≤ 15 ∧ (0 : RegIdx) ≠ 15 ∧ (1 : RegIdx) ≠ 15 ∧
    live.i.toNat + 5 ≤ 0x1000 := by decide

theorem witness_KeySkips : ((live.setReg 1 16).reg 1).toNat > 15 ∧ ((live.setReg 1 15).reg 1).toNat < 16 := by decide

theorem witness_KeyWait : (∀ k : Fin 16, live.keys[k] = false) ∧ (live.keys.set 15 true)[15] = true ∧
    ∀ j : Fin 16, j < 15 → (live.keys.set 15 true)[j] = false := by decide

theorem witness_KeyWaitNeverHalts : (start 0xF30A id).Live ∧
    fetchWord (start 0xF30A id).pc (start 0xF30A id) = .ok (wordXKK 0xF 3 0x0A) ∧
    ∀ k : Fin 16, (start 0xF30A id).keys[k] = false := by decide

theorem witness_DecimalDigitsAreStored : Memory.wf live.cfg live.mem ∧ (live.setI 0x1FF).base < 0x200 ∧
    (live.setI 0xFFE).base + 2 > 0xFFF ∧ 0x200 ≤ (live.setI 0x200).base ∧ (live.setI 0xFFD).base + 2 ≤ 0xFFF := by decide

theorem witness_RegistersAreStored : Memory.wf live.cfg live.mem ∧ (live.setI 0x1FF).base < 0x200 ∧
    (0x200 ≤ (live.setI 0xFF1).base ∧ (live.setI 0xFF1).base + (15 : RegIdx).val > 0xFFF) ∧
    (0x200 ≤ (live.setI 0xFF0).base ∧ (live.setI 0xFF0).base + (15 : RegIdx).val ≤ 0xFFF) ∧
    liveQuirks.cfg.quirkMemIncrementI = true ∧ live.cfg.quirkMemIncrementI = false := by decide

theorem witness_RegistersAreLoaded : (live.setI 0x1000).base + (0 : RegIdx).val > 0xFFF ∧
    live.base + (15 : RegIdx).val ≤ 0xFFF ∧ (live.setI 0xFFF).base + (0 : RegIdx).val ≤ 0xFFF := by decide

theorem witness_StoresAreSeenByTheFetch : Memory.wf live.cfg live.mem ∧ 0x200 ≤ (live.setI 0x200).base ∧
    (live.setI 0xFFF).base + (0 : RegIdx).val ≤ 0xFFF ∧ (live.setI 0xFF0).base + (15 : RegIdx).val ≤ 0xFFF ∧
    (live.setI 0xFFD).base + 2 ≤ 0xFFF := by decide

/-- Each clause of FetchesStored at a boundary, for FX33 at 0x300: the word at 0x2FF ends in the first byte, the word at
0x301 begins with the second, the word at 0x303 lies above the block. -/
theorem witness_StoresAreSeenByTheFetch_edges : 0x2FF + 1 = 0x300 + 0 ∧ 0x2FF < 0x300 ∧ 0x301 = 0x300 + 1 ∧
    0x302 + 1 ≥ 0x300 + 3 ∧ 0x300 + 3 ≤ 0x303 := by decide

/-- R57 with X = 0: the one byte stored is the low byte of the word before it and the high byte of its own (V-M20's
store, cut to one register). -/
theorem test_store_then_fetch : execCheck (.ldMemVx 0) ((live.setReg 0 0x6B).setI 0x202)
    (fun t => fetchWord 0x201 t == .ok 0x006B && fetchWord 0x202 t == .ok 0x6B00) = true := by decide

theorem witness_ResetIsTheConstructedCore : 79 < 80 ∧ 80 ≤ 80 := by decide

theorem witness_ConstructedCoreState : construct cfgT = some (State.constructed cfgT) ∧ 79 < 80 ∧ 80 ≤ 80 ∧
    (State.constructed cfgT).runnable = false ∧ (load .unreadable (State.constructed cfgT)).1 ≠ .ok := by decide

theorem witness_LoadAnswers : 3584 < (List.replicate 3585 (0 : Byte)).length ∧
    (List.replicate 3584 (0 : Byte)).length ≤ 3584 := by
  rw [List.length_replicate, List.length_replicate]
  decide

theorem witness_LoadInstallsAFreshState : load (.bytes [0xA2, 0xF0]) halted = (.ok, loaded [0xA2, 0xF0] halted) := rfl

theorem witness_LoadsAreIdempotent : ([0x60, 0xFF] : List Byte).length ≤ 3584 ∧ ([] : List Byte).length ≤ 3584 := by
  decide

theorem witness_StepPortReports : (State.constructed cfgT).runnable = false ∧
    (halted.runnable = true ∧ halted.fault = some ⟨.stackUnderflow, 0x200⟩) ∧ live.Live := by decide

/-- Both answers of a live core: it runs, or it halts in this cycle. -/
theorem witness_StepPortReports_live :
    (∃ t, step (start 0x6A42 id) = .next t ∧ (t.fault == none) = true) ∧
    ∃ t, step live = .next t ∧ (t.fault == some ⟨.unknownOpcode 0, 0x200⟩) = true :=
  ⟨exists_of_check (by decide), exists_of_check (by decide)⟩

theorem witness_KeyboardPort : 16 ≤ 16 ∧ 15 < 16 := by decide

theorem witness_RenderPort : ([] : List Byte).length ≠ 8192 ∧ (List.replicate 8192 (0 : Byte)).length = 8192 := by
  rw [List.length_replicate]
  decide

end Sys2Proof.Tests
end

section
/-! PROOFS. What each instruction may write, said once (`exec_frame`), and what follows for the single fields: the
host's state, the accumulators, the stack, the address register, register 15, PC, memory. -/

namespace Sys2Proof.Machine

/-- The fields an instruction that does not raise may write: `t` is `s` in every other field. -/
def Frame (i : Instr) (s t : State) : Prop :=
  match i with
  | .cls => t = { s with disp := t.disp }
  | .ret | .call _ => t = { s with stack := t.stack, pc := t.pc }
  | .jp _ | .jpV0 _ | .seByte _ _ | .sneByte _ _ | .seReg _ _ | .sneReg _ _ | .skp _ | .sknp _ =>
    t = { s with pc := t.pc }
  | .ldByte _ _ | .addByte _ _ | .ldReg _ _ | .orReg _ _ | .andReg _ _ | .xorReg _ _ | .ldVxDt _ |
    .addReg _ _ | .subReg _ _ | .shr _ _ | .subn _ _ | .shl _ _ => t = { s with regs := t.regs }
  | .rnd _ _ => t = { s with regs := t.regs, drawIndex := t.drawIndex }
  | .drw _ _ _ => t = { s with regs := t.regs, disp := t.disp }
  | .ldVxK _ => t = { s with regs := t.regs, pc := t.pc }
  | .ldDtVx _ => t = { s with dt := t.dt }
  | .ldStVx _ => t = { s with st := t.st }
  | .ldI _ | .addI _ | .ldF _ => t = { s with i := t.i }
  | .ldB _ => t = { s with mem := t.mem }
  | .ldMemVx _ => t = { s with mem := t.mem, i := t.i }
  | .ldVxMem _ => t = { s with regs := t.regs, i := t.i }

/-- An instruction's effect stays inside its frame. -/
theorem Effect.frame {i : Instr} {s t : State} (he : Effect i s t) : Frame i s t := by
  cases i
  case ret => obtain ⟨v, rest, -, rfl⟩ := he; rfl
  case call nnn => obtain ⟨-, rfl⟩ := he; rfl
  case drw x y n => obtain ⟨rows, -, rfl⟩ := he; rfl
  case seByte x kk | sneByte x kk | seReg x y | sneReg x y => cases he; exact skipIf_frame _ _
  case skp x | sknp x => obtain ⟨_, rfl⟩ := he; exact skipIf_frame _ _
  case orReg x y | andReg x y | xorReg x y => cases he; exact logicFlag_frame _
  case ldVxK x => rcases he with ⟨-, rfl⟩ | ⟨k, -, rfl⟩ <;> rfl
  case ldB x => exact (writeBlock_ok he).1
  case ldMemVx x =>
    obtain ⟨u, hu, rfl⟩ := he
    rw [(writeBlock_ok hu).1]
    exact (bumpI_frame _ x).trans (by simp)
  case ldVxMem x =>
    obtain ⟨bs, -, rfl⟩ := he
    exact (bumpI_frame _ x).trans (by simp)
  all_goals cases he; rfl

/-- Every instruction raises, or has its effect inside its frame. -/
theorem exec_frame {i : Instr} {s t : State} (h : exec i s = .next t) :
    (∃ k, t = raise k s.pc0 s) ∨ Frame i s t :=
  (exec_effect h).imp_right Effect.frame

/-- The fields that belong to the host (R30, R31, R34 to R36, R40). -/
def State.hostPart (s : State) : Vector Bool 16 × Bool × Nat × RngMode × Config :=
  (s.keys, s.runnable, s.debugLevel, s.rngMode, s.cfg)

theorem hostPart_eq_iff {s t : State} : t.hostPart = s.hostPart ↔
    t.keys = s.keys ∧ t.runnable = s.runnable ∧ t.debugLevel = s.debugLevel ∧ t.rngMode = s.rngMode ∧
      t.cfg = s.cfg := by
  simp only [State.hostPart, Prod.mk.injEq]

/-- No instruction writes the host's fields. -/
theorem exec_hostPart {i : Instr} {s t : State} (h : exec i s = .next t) : t.hostPart = s.hostPart := by
  rcases exec_frame h with ⟨k, rfl⟩ | hf
  · rfl
  · cases i <;> exact (congrArg State.hostPart hf :)

/-- No instruction writes an accumulator (R124). -/
theorem exec_accumulators {i : Instr} {s t : State} (h : exec i s = .next t) : t.accD = s.accD ∧ t.accS = s.accS := by
  rcases exec_frame h with ⟨k, rfl⟩ | hf
  · exact ⟨rfl, rfl⟩
  · cases i <;> exact ⟨(congrArg State.accD hf :), (congrArg State.accS hf :)⟩

/-- What an instruction does to the stack: nothing, the push of a CALL with room, or the pop of a RET, which jumps to
the entry it pops (R24, R75, R77). -/
theorem exec_stack_cases {i : Instr} {s t : State} (h : exec i s = .next t) :
    t.stack = s.stack ∨ (∃ nnn, i = .call nnn ∧ s.sp ≠ stackDepth ∧ t.stack = s.pc :: s.stack) ∨
      (i = .ret ∧ s.stack = t.pc :: t.stack) := by
  rcases exec_effect h with ⟨k, rfl⟩ | he
  · exact .inl rfl
  have hf := he.frame
  cases i
  case call nnn => obtain ⟨hsp, rfl⟩ := he; exact .inr (.inl ⟨nnn, rfl, hsp, rfl⟩)
  case ret => obtain ⟨v, rest, hs, rfl⟩ := he; exact .inr (.inr ⟨rfl, hs⟩)
  all_goals exact .inl (congrArg State.stack hf :)

theorem skipIf_pc_cases (s : State) (c : Bool) : (s.skipIf c).pc = s.pc ∨ (s.skipIf c).pc = s.pc + 2 := by
  cases c <;> simp

theorem toNat_addrOperand (nnn : Addr12) : (addrOperand nnn).toNat = nnn.toNat := by
  simp only [addrOperand, BitVec.toNat_setWidth]; omega

/-- BNNN's target does not wrap (R22, R82). -/
theorem toNat_indexedTarget (nnn : Addr12) (s : State) :
    (indexedTarget nnn s).toNat = nnn.toNat + (s.reg 0).toNat := by
  simp only [indexedTarget, BitVec.toNat_add, toNat_addrOperand, BitVec.toNat_setWidth]; omega

/-- Where PC can go in the execute stage: it stays, skips, goes back to FX0A, returns, or jumps (R22). -/
theorem exec_pc_cases {i : Instr} {s t : State} (h : exec i s = .next t) :
    t.pc = s.pc ∨ t.pc = s.pc + 2 ∨ t.pc = s.pc - 2 ∨ t.pc ∈ s.stack ∨ t.pc.toNat ≤ 0x10FE := by
  rcases exec_effect h with ⟨k, rfl⟩ | he
  · exact .inl rfl
  have hf := he.frame
  cases i
  case seByte x kk | sneByte x kk | seReg x y | sneReg x y =>
    cases he; exact (skipIf_pc_cases _ _).imp_right .inl
  case skp x | sknp x => obtain ⟨_, rfl⟩ := he; exact (skipIf_pc_cases _ _).imp_right .inl
  case ldVxK x =>
    rcases he with ⟨-, rfl⟩ | ⟨k, -, rfl⟩
    · exact .inr (.inr (.inl rfl))
    · exact .inl rfl
  case ret => obtain ⟨v, rest, hs, rfl⟩ := he; simp [hs]
  case jp nnn => cases he; have := toNat_addrOperand nnn; simp; omega
  case call nnn => obtain ⟨-, rfl⟩ := he; have := toNat_addrOperand nnn; simp; omega
  case jpV0 nnn => cases he; have := toNat_indexedTarget nnn s; simp; omega
  all_goals exact .inl (congrArg State.pc hf :)

/-- Every instruction keeps the canonical form of memory and the reserved region (R41, R60). -/
theorem exec_keeps_memory {i : Instr} {s t : State} (h : exec i s = .next t) (hwf : Memory.wf s.cfg s.mem)
    (hfont : s.FontIntact) : Memory.wf s.cfg t.mem ∧ t.FontIntact := by
  rcases exec_effect h with ⟨k, rfl⟩ | he
  · exact ⟨hwf, hfont⟩
  have same : t.mem = s.mem → Memory.wf s.cfg t.mem ∧ t.FontIntact := fun hm => by
    rw [State.FontIntact, hm]; exact ⟨hwf, hfont⟩
  have hf := he.frame
  cases i
  case ldB x =>
    obtain ⟨-, keepsWf, keepsFont⟩ := writeBlock_ok he
    exact ⟨keepsWf hwf, keepsFont hfont⟩
  case ldMemVx x =>
    obtain ⟨u, hu, rfl⟩ := he
    obtain ⟨-, keepsWf, keepsFont⟩ := writeBlock_ok hu
    rw [State.FontIntact, bumpI_mem]
    exact ⟨keepsWf hwf, keepsFont hfont⟩
  all_goals exact same (congrArg State.mem hf :)

end Sys2Proof.Machine
end

section
/-! PROOFS. The four outcomes of a step as equations (R70), the converse of `step_cases`. -/

namespace Sys2Proof.Machine

/-- A core that is not live does not move (R31, R114). -/
theorem step_of_not_live {s : State} (h : ¬ s.Live) : step s = .next s := by
  rcases step_cases (s := s) rfl with ⟨-, hr⟩ | ⟨hl, -⟩ | ⟨_, hl, -⟩
  · exact hr
  · exact absurd hl h
  · exact absurd hl h

theorem step_of_not_runnable {s : State} (h : s.runnable = false) : step s = .next s :=
  step_of_not_live fun ⟨hrun, _⟩ => by simp [h] at hrun

theorem step_of_fetchFault {s : State} (hl : s.Live) (hpc : s.pc.toNat > 0xFFE) :
    step s = .next (raise (.fetchFault s.pc) s.pc (timerTick s)) := by
  rcases step_cases (s := s) rfl with ⟨hn, -⟩ | ⟨-, -, hr⟩ | ⟨_, -, hle, -⟩
  · exact absurd hl hn
  · exact hr
  · exact absurd hpc (Nat.not_lt.2 hle)

/-- A word fetched by a live core is decoded and executed after the tick and the advance. -/
theorem step_of_fetched {s : State} {op : Word} (hl : s.Live) (hf : fetchWord s.pc s = .ok op) :
    step s = decodeAndExecute op s.pc (timerTick s).advancePc := by
  simp [step, cycle, idle_false hl, fetchAndExecute, hf]

theorem step_of_unknownOpcode {s : State} {op : Word} (hl : s.Live) (hf : fetchWord s.pc s = .ok op)
    (hd : decode op = .error (.unknownOpcode op)) :
    step s = .next (raise (.unknownOpcode op) s.pc (timerTick s).advancePc) := by
  rw [step_of_fetched hl hf, decodeAndExecute, hd]

theorem step_of_decoded {s : State} {op : Word} {i : Instr} (hl : s.Live) (hf : fetchWord s.pc s = .ok op)
    (hd : decode op = .ok i) : step s = exec i (timerTick s).advancePc := by
  rw [step_of_fetched hl hf, decodeAndExecute, hd]

end Sys2Proof.Machine
end

section
/-! PROOFS. The invariant: the tick, the advance, a raise and every instruction keep it, so a step does (O14). -/

namespace Sys2Proof.Machine

theorem timerTick_keeps_inv {s : State} (hi : s.Inv) : (timerTick s).Inv where
  config := hi.config
  memory := hi.memory
  font := hi.font
  depth := hi.depth
  entries := hi.entries
  pc := hi.pc
  accEq := by
    rw [timerTick_accD, timerTick_accS, ← hi.accEq]
    exact tickTimer_acc_eq s.cfg s.accD s.dt s.st
  accLe := tickTimer_acc_le s.dt hi.config hi.accLe
  faultRunnable := hi.faultRunnable

theorem setPc_keeps_inv {s : State} {v : Word} (hi : s.Inv) (hv : v.toNat ≤ 0x10FE) : (s.setPc v).Inv :=
  { hi with pc := hv }

/-- A fault is raised only by a cycle of a runnable core (R32). -/
theorem raise_keeps_inv {s : State} {k : FaultKind} {pc0 : Word} (hi : s.Inv) (hrun : s.runnable = true) :
    (raise k pc0 s).Inv :=
  { hi with faultRunnable := fun _ => hrun }

/-- The stack's bounds survive an instruction, since a CALL pushes a PC of at most 0x1000 (R22, R24). -/
theorem exec_keeps_stackBounds {i : Instr} {s t : State} (h : exec i s = .next t) (hi : s.Inv)
    (hhi : s.pc.toNat ≤ 0x1000) : t.stack.length ≤ stackDepth ∧ ∀ v ∈ t.stack, v.toNat ≤ 0x1000 := by
  have hdepth := hi.depth
  have hentries := hi.entries
  rcases exec_stack_cases h with hs | ⟨-, -, hroom, hs⟩ | ⟨-, hs⟩
  · rw [hs]; exact ⟨hdepth, hentries⟩
  · rw [hs]
    refine ⟨Nat.lt_of_le_of_ne hdepth hroom, fun v hv => ?_⟩
    rcases List.mem_cons.1 hv with rfl | hv
    · exact hhi
    · exact hentries v hv
  · rw [hs] at hdepth hentries
    exact ⟨Nat.le_of_succ_le hdepth, fun v hv => hentries v (List.mem_cons_of_mem _ hv)⟩

/-- PC stays in R22's range: what is below 0x1000 skips at most to 0x1002, and no jump goes above 0x10FE. -/
theorem exec_keeps_pcBound {i : Instr} {s t : State} (h : exec i s = .next t) (hi : s.Inv)
    (hlo : 2 ≤ s.pc.toNat) (hhi : s.pc.toNat ≤ 0x1000) : t.pc.toNat ≤ 0x10FE := by
  rcases exec_pc_cases h with hp | hp | hp | hp | hp
  · rw [hp]; omega
  · bv_omega
  · bv_omega
  · have := hi.entries _ hp; omega
  · exact hp

/-- Every instruction keeps the invariant in the execute stage, where PC is the address of the instruction plus 2. -/
theorem exec_keeps_inv {i : Instr} {s t : State} (h : exec i s = .next t) (hi : s.Inv) (hrun : s.runnable = true)
    (hlo : 2 ≤ s.pc.toNat) (hhi : s.pc.toNat ≤ 0x1000) : t.Inv := by
  obtain ⟨-, hrunT, -, -, hcfg⟩ := hostPart_eq_iff.1 (exec_hostPart h)
  obtain ⟨haccD, haccS⟩ := exec_accumulators h
  obtain ⟨hwf, hfont⟩ := exec_keeps_memory h hi.memory hi.font
  obtain ⟨hdepth, hentries⟩ := exec_keeps_stackBounds h hi hhi
  exact {
    config := by rw [hcfg]; exact hi.config
    memory := by rw [hcfg]; exact hwf
    font := hfont
    depth := hdepth
    entries := hentries
    pc := exec_keeps_pcBound h hi hlo hhi
    accEq := by rw [haccD, haccS]; exact hi.accEq
    accLe := by rw [haccD, hcfg]; exact hi.accLe
    faultRunnable := fun _ => hrunT.trans hrun }

/-- Settles O14: an idle step changes nothing; else the tick keeps the invariant, a fetched PC is at most 0xFFE, so the
advanced one is in the range `exec_keeps_inv` asks for, and a raise sets FAULT on a runnable core. -/
theorem stepKeepsTheInvariant : Obligations.StepKeepsTheInvariant := by
  intro s t hi h
  have htick := timerTick_keeps_inv hi
  rcases step_cases h with ⟨-, hr⟩ | ⟨hlive, -, hr⟩ | ⟨op, hlive, hpc, -, hr⟩
  · cases hr; exact hi
  · cases hr; exact raise_keeps_inv htick hlive.1
  have hadv : (s.pc + 2).toNat = s.pc.toNat + 2 := by bv_omega
  have hexec : (timerTick s).advancePc.Inv := setPc_keeps_inv htick (by rw [timerTick_pc, hadv]; omega)
  rcases hr with ⟨-, hr⟩ | ⟨i, -, hr⟩
  · cases hr; exact raise_keeps_inv hexec hlive.1
  · refine exec_keeps_inv hr.symm hexec hlive.1 ?_ ?_ <;> rw [advancePc_pc, timerTick_pc, hadv] <;> omega

end Sys2Proof.Machine
end

section
/-! PROOFS. Who writes what: the stack (O21), the address register (O22), the host's fields (O26), VF (O27). -/

namespace Sys2Proof.Machine

/-- Settles O21, from everything an instruction does to the stack. -/
theorem onlyCallAndReturnChangeTheStack : Obligations.OnlyCallAndReturnChangeTheStack := by
  intro i s t h
  rcases exec_stack_cases h with hs | ⟨nnn, hi, -, hs⟩ | ⟨hi, hs⟩
  · exact .inl hs
  · exact .inr (.inl ⟨nnn, hi, s.pc, hs⟩)
  · exact .inr (.inr ⟨hi, t.pc, hs⟩)

/-! ## The address register -/

/-- Where `u` has the address register and the configuration of `s`, only the quirk moves I (R110, R111). -/
theorem quirk_of_bumpI_ne {s u : State} {x : RegIdx} (hi : u.i = s.i) (hcfg : u.cfg = s.cfg)
    (h : (u.bumpI x).i ≠ s.i) : s.cfg.quirkMemIncrementI = true := by
  by_contra hq
  simp [hi, hcfg, hq] at h

/-- Settles O22: outside the frames that hold I nothing writes it, and FX55 and FX65 write it by `bumpI` alone. -/
theorem writersOfTheAddressRegister : Obligations.WritersOfTheAddressRegister := by
  intro i s t h hne
  rcases exec_effect h with ⟨k, rfl⟩ | he
  · exact absurd rfl hne
  have hf := he.frame
  cases i
  case ldI nnn => exact .inl ⟨nnn, rfl⟩
  case addI x => exact .inr (.inl ⟨x, rfl⟩)
  case ldF x => exact .inr (.inr (.inl ⟨x, rfl⟩))
  case ldMemVx x =>
    obtain ⟨u, hu, rfl⟩ := he
    have hframe := (writeBlock_ok hu).1
    have hq := quirk_of_bumpI_ne (congrArg State.i hframe :) (congrArg State.cfg hframe :) hne
    exact .inr (.inr (.inr ⟨hq, x, .inl rfl⟩))
  case ldVxMem x =>
    obtain ⟨bs, -, rfl⟩ := he
    have hq := quirk_of_bumpI_ne (loadRegs_i s bs) (loadRegs_cfg s bs) hne
    exact .inr (.inr (.inr ⟨hq, x, .inr rfl⟩))
  all_goals exact absurd (congrArg State.i hf :) hne

/-! ## The host's fields -/

/-- No step writes the host's fields. -/
theorem step_hostPart {s t : State} (h : step s = .next t) : t.hostPart = s.hostPart := by
  rcases step_cases h with ⟨-, hr⟩ | ⟨-, -, hr⟩ | ⟨op, -, -, -, ⟨-, hr⟩ | ⟨i, -, hr⟩⟩
  · cases hr; rfl
  · cases hr; rfl
  · cases hr; rfl
  · exact (exec_hostPart hr.symm :)

/-- Settles O26, field by field of the host's part. -/
theorem stepLeavesHostStateAlone : Obligations.StepLeavesHostStateAlone := fun _ _ h =>
  hostPart_eq_iff.1 (step_hostPart h)

/-! ## Register 15 -/

theorem eq_of_reg_setReg_ne {s : State} {x k : RegIdx} {v : Byte} (h : (s.setReg x v).reg k ≠ s.reg k) : x = k := by
  by_contra hx
  simp [Ne.symm hx] at h

/-- A logic operation changes VF as its destination or by the quirk (R87 to R89). -/
theorem vf_of_logic_ne {s : State} {x : RegIdx} {v : Byte} (h : (s.setReg x v).logicFlag.reg 15 ≠ s.reg 15) :
    s.cfg.quirkLogicVfReset = true ∨ x = 15 := by
  by_cases hq : s.cfg.quirkLogicVfReset = true
  · exact .inl hq
  · simp only [reg_logicFlag, setReg_cfg, hq] at h
    exact .inr (eq_of_reg_setReg_ne h)

/-- FX65 reaches register 15 only with X = 15 (R111). -/
theorem vf_of_loadRegs_ne {s : State} {x : RegIdx} {bs : List Byte} (hlen : bs.length = x.val + 1)
    (h : ((s.loadRegs bs).bumpI x).reg 15 ≠ s.reg 15) : x = 15 := by
  by_contra hx
  have hx' : x.val ≠ 15 := fun hv => hx (Fin.ext hv)
  have hout : bs[15]? = none := List.getElem?_eq_none (by omega)
  simp [hout] at h

/-- Settles O27: by the frames, an instruction that changes register 15 writes registers; the flag instructions are
listed, and any other one changes register 15 only if that is its destination. -/
theorem implicitWritersOfTheFlag : Obligations.ImplicitWritersOfTheFlag := by
  intro i s t h hne
  rcases exec_effect h with ⟨k, rfl⟩ | he
  · exact absurd rfl hne
  have hf := he.frame
  cases i
  case addReg x y | subReg x y | shr x y | subn x y | shl x y => exact .inl ⟨x, y, by simp⟩
  case drw x y n => exact .inr (.inl ⟨x, y, n, rfl⟩)
  case orReg x y | andReg x y | xorReg x y =>
    cases he
    rcases vf_of_logic_ne hne with hq | rfl
    · exact .inr (.inr (.inl ⟨hq, x, y, by simp⟩))
    · simp
  case ldByte x kk | addByte x kk | ldReg x y | rnd x kk | ldVxDt x =>
    cases he
    obtain rfl := eq_of_reg_setReg_ne hne
    simp
  case ldVxK x =>
    rcases he with ⟨-, rfl⟩ | ⟨k, -, rfl⟩
    · exact absurd rfl hne
    · obtain rfl := eq_of_reg_setReg_ne hne
      simp
  case ldVxMem x =>
    obtain ⟨bs, hbs, rfl⟩ := he
    obtain rfl := vf_of_loadRegs_ne (readBlock_length hbs) hne
    simp
  all_goals exact absurd (reg_eq_of_regs_eq (congrArg State.regs hf :) 15) hne

end Sys2Proof.Machine
end

section
/-! PROOFS. The debug level and the random-source mode change nothing a cycle does (O28). -/

namespace Sys2Proof.Machine

theorem pop_setDebugLevel (l : Nat) (s : State) :
    pop (setDebugLevel l s) = (pop s).map fun r => (r.1, setDebugLevel l r.2) := by
  rcases pop_cases (s := s) rfl with ⟨hs, hp⟩ | ⟨v, rest, hs, hp⟩ <;> rw [hp] <;>
    simp [pop, hs, Except.map, setDebugLevel]

theorem push_setDebugLevel (l : Nat) (v : Word) (s : State) :
    push v (setDebugLevel l s) = (push v s).map (setDebugLevel l) := by
  by_cases hs : s.sp = stackDepth
  · simp only [push, if_pos hs, if_pos (show (setDebugLevel l s).sp = stackDepth from hs)]; rfl
  · simp only [push, if_neg hs, if_neg (show (setDebugLevel l s).sp ≠ stackDepth from hs)]; rfl

theorem loadRegs_setDebugLevel (l : Nat) (s : State) (bs : List Byte) :
    (setDebugLevel l s).loadRegs bs = setDebugLevel l (s.loadRegs bs) := by
  simp only [setDebugLevel, State.loadRegs]

/-- An instruction whose result commutes with the debug level ends alike: so does its raise. -/
theorem complete_setDebugLevel {l : Nat} {s t : State} {r r' : Except FaultKind State}
    (hr : r' = r.map (setDebugLevel l)) (h : complete s r = .next t) :
    complete (setDebugLevel l s) r' = .next (setDebugLevel l t) := by
  subst hr
  cases r <;> cases h <;> rfl

/-- The same for an operation's answer `x`, from which `f` makes the next state: `φ` is what the debug level changes
in the answer. -/
theorem complete_map_setDebugLevel {α : Type} {l : Nat} {s t : State} {x x' : Except FaultKind α} {φ : α → α}
    {f g : α → State} (hx : x' = x.map φ) (hfg : ∀ a, g (φ a) = setDebugLevel l (f a))
    (h : complete s (x.map f) = .next t) : complete (setDebugLevel l s) (x'.map g) = .next (setDebugLevel l t) := by
  refine complete_setDebugLevel ?_ h
  subst hx
  cases x with
  | error k => rfl
  | ok a => exact congrArg Except.ok (hfg a)

/-- The same for an operation that only reads. -/
theorem complete_read_setDebugLevel {α : Type} {l : Nat} {s t : State} {x x' : Except FaultKind α}
    {f g : α → State} (hx : x' = x) (hfg : ∀ a, g a = setDebugLevel l (f a))
    (h : complete s (x.map f) = .next t) : complete (setDebugLevel l s) (x'.map g) = .next (setDebugLevel l t) :=
  complete_map_setDebugLevel (φ := id) (by cases x <;> exact hx) hfg h

theorem exec_ldVxK_none {s : State} {x : RegIdx} (h : lowestPressed s = none) :
    exec (.ldVxK x) s = .next (s.setPc (s.pc - 2)) := by
  simp [exec, execLdVxK, h]

theorem exec_ldVxK_some {s : State} {x : RegIdx} {k : RegIdx} (h : lowestPressed s = some k) :
    exec (.ldVxK x) s = .next (s.setReg x (BitVec.ofNat 8 k.val)) := by
  simp [exec, execLdVxK, h]

/-- An instruction does the same at every debug level. -/
theorem exec_setDebugLevel {l : Nat} {i : Instr} {s t : State} (h : exec i s = .next t) :
    exec i (setDebugLevel l s) = .next (setDebugLevel l t) := by
  cases i
  case seByte x kk | sneByte x kk | seReg x y | sneReg x y =>
    cases h; exact congrArg Host.Outcome.next (skipIf_setDebugLevel l s _)
  case orReg x y | andReg x y | xorReg x y =>
    cases h; exact congrArg Host.Outcome.next (logicFlag_setDebugLevel l (s.setReg x _))
  case ret => exact complete_map_setDebugLevel (pop_setDebugLevel l s) (fun _ => rfl) h
  case call nnn => exact complete_map_setDebugLevel (push_setDebugLevel l s.pc s) (fun _ => rfl) h
  case drw x y n => exact complete_read_setDebugLevel (readBlock_setDebugLevel l s.base n s) (fun _ => rfl) h
  case skp x => exact complete_read_setDebugLevel (x := keyOperand (s.reg x) s) rfl (skipIf_setDebugLevel l s) h
  case sknp x =>
    exact complete_read_setDebugLevel (x := keyOperand (s.reg x) s) rfl (fun p => skipIf_setDebugLevel l s !p) h
  case ldVxK x =>
    cases hk : lowestPressed s with
    | none =>
      rw [exec_ldVxK_none hk] at h
      cases h
      exact exec_ldVxK_none (s := setDebugLevel l s) hk
    | some k =>
      rw [exec_ldVxK_some hk] at h
      cases h
      exact exec_ldVxK_some (s := setDebugLevel l s) hk
  case ldB x => exact complete_setDebugLevel (writeBlock_setDebugLevel l _ _ s) h
  case ldMemVx x =>
    exact complete_map_setDebugLevel (writeBlock_setDebugLevel l s.base (s.regsUpTo x) s)
      (fun u => bumpI_setDebugLevel l u x) h
  case ldVxMem x =>
    exact complete_read_setDebugLevel (readBlock_setDebugLevel l s.base (x.val + 1) s)
      (fun bs => by rw [loadRegs_setDebugLevel, bumpI_setDebugLevel]) h
  all_goals cases h; rfl

/-- Settles O28: the port's frame is its definition; each outcome of a step reads nothing of the debug level, and an
instruction commutes with it. -/
theorem debugLevelIsNotObservable : Obligations.DebugLevelIsNotObservable := by
  refine fun l s t => ⟨rfl, fun h => ?_⟩
  rcases step_cases h with ⟨hl, hr⟩ | ⟨hl, hpc, hr⟩ | ⟨op, hl, -, hf, ⟨hd, hr⟩ | ⟨i, hd, hr⟩⟩
  · cases hr; exact step_of_not_live (s := setDebugLevel l s) hl
  · cases hr; exact step_of_fetchFault (s := setDebugLevel l s) hl hpc
  · cases hr; exact step_of_unknownOpcode (s := setDebugLevel l s) hl hf hd
  · exact (step_of_decoded (s := setDebugLevel l s) hl hf hd).trans (exec_setDebugLevel hr.symm)

end Sys2Proof.Machine
end

section
/-! PROOFS. Construction and load: the state of a new core (O15, O52, O60), the state after a load (O54), and
RUNNABLE over all of them (O12). -/

namespace Sys2Proof.Machine

/-! ## Construction (R39, R122, R138) -/

theorem construct_eq_some_iff {cfg : Config} {s : State} :
    construct cfg = some s ↔ cfg.Valid ∧ s = State.constructed cfg := by
  simp [construct, eq_comm]

theorem construct_eq_none_iff {cfg : Config} : construct cfg = none ↔ ¬ cfg.Valid := by
  simp [construct]

theorem initial_valid : Config.initial.Valid := ⟨Nat.succ_pos _, Nat.le_add_right _ _⟩

theorem construct_initial : construct Config.initial = some State.reset :=
  construct_eq_some_iff.2 ⟨initial_valid, rfl⟩

theorem constructed_inv {cfg : Config} (hv : cfg.Valid) : (State.constructed cfg).Inv where
  config := hv
  memory := Memory.wf_nil
  font := by simp [State.constructed]
  depth := by simp [State.constructed]
  entries := by simp [State.constructed]
  pc := by simp [State.constructed]
  accEq := rfl
  accLe := Nat.zero_le _
  faultRunnable := fun h => absurd rfl h

/-- Settles O15, by the constructed core's invariant. -/
theorem constructionMeetsTheInvariant : Obligations.ConstructionMeetsTheInvariant := by
  refine ⟨constructed_inv initial_valid, fun cfg s h => ?_, fun cfg => ?_⟩
  · obtain ⟨hv, rfl⟩ := construct_eq_some_iff.1 h
    exact constructed_inv hv
  · rw [construct_eq_none_iff]
    simp only [Config.Valid]
    omega

/-! ## The memory and registers of a fresh core (R38) -/

theorem unlistedByte_font (cfg : Config) {a : Nat} (h : a < 80) : unlistedByte cfg a = cfg.font[a] := by
  simp [unlistedByte, h]

theorem unlistedByte_above (cfg : Config) {a : Nat} (h : 80 ≤ a) : unlistedByte cfg a = 0 := by
  simp [unlistedByte, h]

theorem readByte_constructed (cfg : Config) (a : Nat) :
    (State.constructed cfg).readByte a = unlistedByte cfg a := rfl

theorem reg_constructed (cfg : Config) (x : RegIdx) : (State.constructed cfg).reg x = 0 := by
  simp [State.reg, State.constructed]

theorem keys_constructed (cfg : Config) (k : Fin 16) : (State.constructed cfg).keys[k] = false := by
  simp [State.constructed]

/-! ## The load port (R139 to R142) -/

/-- A load fails and changes nothing, or installs a ROM that fits. -/
theorem load_cases (input : LoadInput) (s : State) :
    ((load input s).1 ≠ .ok ∧ (load input s).2 = s) ∨
      ∃ rom, input = .bytes rom ∧ rom.length ≤ romMax ∧ load input s = (.ok, loaded rom s) := by
  cases input with
  | unreadable => exact .inl ⟨by simp [load], rfl⟩
  | bytes rom =>
    by_cases hlen : rom.length > romMax
    · simp [load, hlen]
    · exact .inr ⟨rom, rfl, Nat.le_of_not_lt hlen, if_neg hlen⟩

/-- A load that answers Ok installs the ROM's state. -/
theorem load_ok {rom : List Byte} {s t : State} (h : load (.bytes rom) s = (.ok, t)) : t = loaded rom s := by
  rcases load_cases (.bytes rom) s with ⟨hne, -⟩ | ⟨_, hb, -, hok⟩
  · simp [h] at hne
  · cases hb
    rw [h] at hok
    exact congrArg Prod.snd hok

theorem load_failed {input : LoadInput} {s : State} (h : (load input s).1 ≠ .ok) : (load input s).2 = s := by
  rcases load_cases input s with ⟨-, hs⟩ | ⟨rom, -, -, hok⟩
  · exact hs
  · simp [hok] at h

theorem load_ok_runnable {input : LoadInput} {s : State} (h : (load input s).1 = .ok) :
    (load input s).2.runnable = true := by
  rcases load_cases input s with ⟨hne, -⟩ | ⟨rom, -, -, hok⟩
  · exact absurd h hne
  · rw [hok]; rfl

theorem updateKey_runnable (k : Nat) (p : Bool) (s : State) : (updateKey k p s).2.runnable = s.runnable := by
  unfold updateKey
  split <;> rfl

/-- After a load, memory is the ROM at 0x200 and the unlisted bytes elsewhere (R38). -/
theorem readByte_loaded (rom : List Byte) (s : State) (a : Nat) :
    (loaded rom s).readByte a =
      if 0x200 ≤ a then (rom[a - 0x200]?).getD (unlistedByte s.cfg a) else unlistedByte s.cfg a :=
  Memory.read_ofBytes

/-! ## The obligations -/

/-- Settles O12: construction and load by their cases, the step by the host's part it never writes. -/
theorem runnableFollowsTheLoad : Obligations.RunnableFollowsTheLoad := by
  refine ⟨fun cfg s h => ?_, fun input s => ⟨load_ok_runnable, fun h => ?_⟩, fun s => step_of_not_runnable,
    fun s t h => ?_⟩
  · obtain ⟨-, rfl⟩ := construct_eq_some_iff.1 h
    rfl
  · rw [load_failed h]
  · obtain ⟨-, hrun, -⟩ := hostPart_eq_iff.1 (step_hostPart h)
    exact hrun

/-- A core with RUNNABLE = 0 does not move, and no port but a successful load makes it runnable. -/
theorem notRunnable_until_load {t : State} (h : t.runnable = false) :
    step t = .next t ∧ (∀ k p, (updateKey k p t).2.runnable = false) ∧
      (∀ l, (setDebugLevel l t).runnable = false) ∧
      ∀ input, (load input t).1 ≠ .ok → (load input t).2.runnable = false :=
  ⟨step_of_not_runnable h, fun k p => (updateKey_runnable k p t).trans h, fun _ => h,
    fun _ hne => by rw [load_failed hne]; exact h⟩

/-- Settles O60: the constructed state's fields, and the cycles and ports of a core that is not runnable. -/
theorem constructedCoreState : Obligations.ConstructedCoreState := by
  intro cfg s h
  obtain ⟨-, rfl⟩ := construct_eq_some_iff.1 h
  refine ⟨rfl, rfl, rfl, rfl, rfl, rfl, rfl, rfl, rfl, rfl, rfl, rfl, rfl, reg_constructed cfg, keys_constructed cfg,
    cellAt_blankDisplay, ?_, ?_, step_of_not_runnable rfl, fun t => notRunnable_until_load⟩
  · intro a ha
    rw [readByte_constructed, unlistedByte_font cfg ha]
  · intro a ha
    rw [readByte_constructed, unlistedByte_above cfg ha]

/-- Settles O52: reset is what `construct` answers for the default configuration, so O60 gives its state. -/
theorem resetIsTheConstructedCore : Obligations.ResetIsTheConstructedCore := by
  obtain ⟨-, hfault, hrun, hpc, hi, hsp, -, hdt, hst, haccD, haccS, hdebug, hrng, hreg, hkeys, hdisp, hfont, hzero,
    hstep, -⟩ := constructedCoreState _ _ construct_initial
  exact ⟨hfault, hrun, hpc, hi, hsp, hdt, hst, haccD, haccS, hdebug, hrng, hreg, hkeys, hdisp, hfont, hzero,
    construct_initial, hstep⟩

/-- Settles O54: the loaded state is the constructed one but for memory, RUNNABLE and the host's fields, and its memory
holds the font, the ROM from 0x200 on and zeros. -/
theorem loadInstallsAFreshState : Obligations.LoadInstallsAFreshState := by
  intro rom s t h
  obtain rfl := load_ok h
  refine ⟨reg_constructed s.cfg, rfl, rfl, rfl, rfl, rfl, rfl, rfl, rfl, ?_, ?_, ?_, ?_, cellAt_blankDisplay,
    keys_constructed s.cfg, rfl, rfl, rfl, rfl⟩
  · intro a ha
    rw [readByte_loaded, if_neg (by omega), unlistedByte_font _ ha]
  · intro a hlo hhi
    rw [readByte_loaded, if_neg (by omega), unlistedByte_above _ hlo]
  · intro k hk
    simp [readByte_loaded, hk]
  · intro a ha
    rw [readByte_loaded, if_pos (by omega), List.getElem?_eq_none (by omega), Option.getD_none,
      unlistedByte_above _ (by omega)]

end Sys2Proof.Machine
end

section
/-! PROOFS. Memory: the checked byte accesses (O7), the fetch (O6), which bytes a store changes (O24, O25), and the
fetch after a store (O51). -/

namespace Sys2Proof.Machine

/-! ## One checked byte (R50, R51) -/

theorem memRead_outOfRange (s : State) {a : Nat} (h : a > 0xFFF) : memRead a s = .error (.addressFault a) := if_pos h

theorem memRead_inRange (s : State) {a : Nat} (h : a ≤ 0xFFF) : memRead a s = .ok (s.readByte a) :=
  if_neg (Nat.not_lt.2 h)

theorem memWrite_outOfRange (s : State) {a : Nat} (v : Byte) (h : a > 0xFFF) :
    memWrite a v s = .error (.addressFault a) := if_pos h

theorem memWrite_reserved (s : State) {a : Nat} (v : Byte) (h : a < 0x200) :
    memWrite a v s = .error (.reservedWriteFault a) := by
  have hrange : ¬ a > 0xFFF := by omega
  rw [memWrite, if_neg hrange, if_pos h]

theorem memWrite_writable (s : State) {a : Nat} (v : Byte) (hlo : 0x200 ≤ a) (hhi : a ≤ 0xFFF) :
    memWrite a v s = .ok (s.writeByte a v) := by
  rw [memWrite, if_neg (Nat.not_lt.2 hhi), if_neg (Nat.not_lt.2 hlo)]

/-- Settles O7: the checks of R50 and R51, and the byte accessor after a write. -/
theorem memoryPrimitives : Obligations.MemoryPrimitives := fun s _ v =>
  ⟨fun h => ⟨memRead_outOfRange s h, memWrite_outOfRange s v h⟩, memRead_inRange s, memWrite_reserved s v,
    fun hlo hhi => ⟨_, memWrite_writable s v hlo hhi, rfl, readByte_writeByte_same s v,
      fun _ => readByte_writeByte_other s v⟩⟩

/-! ## The fetch (R52) -/

/-- Settles O6, by the two cases of the fetch and the value of a word made of two bytes. -/
theorem fetchIsBigEndian : Obligations.FetchIsBigEndian := by
  intro s pc
  rcases fetchWord_cases (pc := pc) (s := s) rfl with ⟨hpc, hf⟩ | ⟨hpc, hf⟩
  · exact ⟨fun _ => hf, fun h => absurd hpc (Nat.not_lt.2 h)⟩
  · exact ⟨fun h => absurd h (Nat.not_lt.2 hpc), fun _ => ⟨_, hf, toNat_wordOfBytes _ _⟩⟩

/-- The fetch at an address given as a number. -/
theorem fetchWord_ofNat (s : State) {a : Nat} (ha : a ≤ 0xFFE) :
    fetchWord (BitVec.ofNat 16 a) s = .ok (s.readByte a ++ s.readByte (a + 1)) := by
  have hval : (BitVec.ofNat 16 a).toNat = a := by rw [BitVec.toNat_ofNat]; omega
  rw [fetchWord, hval, if_neg (Nat.not_lt.2 ha), wordOfBytes]

/-! ## Which bytes change (R49, R60) -/

/-- A store changes bytes of its own block only, and it begins above the reserved region (R51, R53). -/
theorem writeBlock_changed {s t : State} {a b : Nat} {bs : List Byte} (h : writeBlock a bs s = .ok t)
    (hne : t.readByte b ≠ s.readByte b) : 0x200 ≤ a ∧ a ≤ b ∧ b < a + bs.length := by
  have hin : ¬ (b < a ∨ a + bs.length ≤ b) := fun hout => hne (writeBlock_other h hout)
  have hbs : bs ≠ [] := by rintro rfl; simp only [List.length_nil] at hin; omega
  have hlo : ¬ a < 0x200 := fun hlo => by simp [writeBlock_reserved s hlo hbs] at h
  omega

/-- Settles O24: outside the frames that hold memory no byte changes, and FX33 and FX55 store one block at I. -/
theorem onlyStoresChangeMemory : Obligations.OnlyStoresChangeMemory := by
  intro i s t a h hne
  rcases exec_effect h with ⟨k, rfl⟩ | he
  · exact absurd rfl hne
  have hf := he.frame
  cases i
  case ldB x =>
    obtain ⟨hbase, hlo, hhi⟩ := writeBlock_changed he hne
    exact ⟨hbase, .inl ⟨x, rfl, hlo, hhi⟩⟩
  case ldMemVx x =>
    obtain ⟨u, hu, rfl⟩ := he
    rw [readByte_bumpI] at hne
    obtain ⟨hbase, hlo, hhi⟩ := writeBlock_changed hu hne
    rw [regsUpTo_length] at hhi
    exact ⟨hbase, .inr ⟨x, rfl, hlo, hhi⟩⟩
  all_goals exact absurd (readByte_eq_of_mem_eq (congrArg State.mem hf :) (congrArg State.cfg hf :) a) hne

/-- No instruction changes a byte of the reserved region (R49). -/
theorem exec_readByte_reserved {i : Instr} {s t : State} {a : Nat} (h : exec i s = .next t) (ha : a < 0x200) :
    t.readByte a = s.readByte a := by
  by_contra hne
  obtain ⟨hbase, ⟨-, -, hlo, -⟩ | ⟨-, -, hlo, -⟩⟩ := onlyStoresChangeMemory i s t a h hne <;> omega

/-- Settles O25: the tick, the advance and a raise write no memory, and a store begins above the reserved region. -/
theorem noStepChangesTheReservedRegion : Obligations.NoStepChangesTheReservedRegion := by
  intro s t a ha h
  rcases step_cases h with ⟨-, hr⟩ | ⟨-, -, hr⟩ | ⟨op, -, -, -, ⟨-, hr⟩ | ⟨i, -, hr⟩⟩
  · cases hr; rfl
  · cases hr; rfl
  · cases hr; rfl
  · exact (exec_readByte_reserved hr.symm ha :)

/-! ## The fetch after a store (R57) -/

/-- FX55 inside the writable region stores its registers and completes (R110). -/
theorem exec_ldMemVx_inRange (s : State) {x : RegIdx} (hlo : 0x200 ≤ s.base) (hhi : s.base + x.val ≤ 0xFFF) :
    ∃ u, writeBlock s.base (s.regsUpTo x) s = .ok u ∧ exec (.ldMemVx x) s = .next (u.bumpI x) := by
  obtain ⟨u, hu⟩ := writeBlock_inRange s (bs := s.regsUpTo x) hlo (by rw [regsUpTo_length]; omega)
  exact ⟨u, hu, by simp [exec, execLdMemVx, hu, Except.map]⟩

theorem bcdDigits_length (v : Byte) : (bcdDigits v).length = 3 := rfl

/-- FX33 inside the writable region stores its digits and completes (R109). -/
theorem exec_ldB_inRange (s : State) (x : RegIdx) (hlo : 0x200 ≤ s.base) (hhi : s.base + 2 ≤ 0xFFF) :
    ∃ u, writeBlock s.base (bcdDigits (s.reg x)) s = .ok u ∧ exec (.ldB x) s = .next u := by
  obtain ⟨u, hu⟩ := writeBlock_inRange s (bs := bcdDigits (s.reg x)) hlo (by rw [bcdDigits_length]; omega)
  exact ⟨u, hu, by simp [exec, execLdB, hu]⟩

/-- The k-th byte FX55 stores is register k (R110). -/
theorem getElem_regsUpTo (s : State) (x : RegIdx) {k : Nat} (hk : k < (s.regsUpTo x).length) :
    (s.regsUpTo x)[k] = s.reg (Fin.ofNat 16 k) := by
  have hk16 : k % 16 = k := by rw [regsUpTo_length] at hk; omega
  simp [State.regsUpTo, State.reg, hk16]

/-- The k-th byte FX33 stores is the k-th decimal digit (R109). -/
theorem toNat_getElem_bcdDigits (v : Byte) {k : Nat} (hk : k < (bcdDigits v).length) :
    (bcdDigits v)[k].toNat = v.toNat / 10 ^ (2 - k) % 10 := by
  have hv := v.isLt
  match k, hk with
  | 0, _ => simp [bcdDigits]; omega
  | 1, _ => simp [bcdDigits]
  | 2, _ => simp [bcdDigits]

/-- After a block store every fetch sees the block's bytes in it and the old bytes outside, whichever byte of the
word they are; `t` is any state with the memory the store left. -/
theorem fetchesStored_of_writeBlock {s u t : State} {a : Nat} {bs : List Byte} {stored : Nat → Nat}
    (h : writeBlock a bs s = .ok u) (hwf : Memory.wf s.cfg s.mem) (ht : ∀ b, t.readByte b = u.readByte b)
    (hstored : ∀ k (hk : k < bs.length), bs[k].toNat = stored k) : FetchesStored s t a bs.length stored := by
  have inside : ∀ b k, k < bs.length → b = a + k → (t.readByte b).toNat = stored k := by
    rintro _ k hk rfl
    rw [ht, writeBlock_same h hwf hk, hstored]
  have outside : ∀ b, b < a ∨ a + bs.length ≤ b → t.readByte b = s.readByte b := fun b hb => by
    rw [ht, writeBlock_other h hb]
  exact fun b hb => ⟨t.readByte b, t.readByte (b + 1), fetchWord_ofNat t hb, fetchWord_ofNat (timerTick t) hb,
    inside b, inside (b + 1), outside b, outside (b + 1)⟩

/-- Settles O51: FX55 and FX33 each store one block at I, so the fetch after them is that after a block store. -/
theorem storesAreSeenByTheFetch : Obligations.StoresAreSeenByTheFetch := by
  refine fun x s hwf => ⟨fun hlo hhi => ?_, fun hlo hhi => ?_⟩
  · obtain ⟨u, hu, hexec⟩ := exec_ldMemVx_inRange s hlo hhi
    have hfetch := fetchesStored_of_writeBlock hu hwf (readByte_bumpI u x) fun k hk =>
      congrArg BitVec.toNat (getElem_regsUpTo s x hk)
    rw [regsUpTo_length] at hfetch
    exact ⟨_, hexec, hfetch⟩
  · obtain ⟨u, hu, hexec⟩ := exec_ldB_inRange s x hlo hhi
    exact ⟨u, hexec, fetchesStored_of_writeBlock hu hwf (fun _ => rfl) fun _ => toNat_getElem_bcdDigits (s.reg x)⟩

end Sys2Proof.Machine
end

section
/-! PROOFS. The templates and the decoder: the templates are disjoint (O3), so a word decodes to an instruction exactly
when some row matches the word and builds the instruction. -/

namespace Sys2Proof

/-- The patterns of two templates differ in a bit that both masks keep. -/
abbrev OpcodeRow.Clash (r q : OpcodeRow) : Prop := r.pattern &&& q.mask ≠ q.pattern &&& r.mask

theorem OpcodeRow.Clash.disjoint {r q : OpcodeRow} (h : r.Clash q) (op : Word) :
    ¬ (r.matches op = true ∧ q.matches op = true) := by
  simp only [OpcodeRow.matches, beq_iff_eq]
  rintro ⟨hr, hq⟩
  refine h ?_
  rw [← hr, ← hq, BitVec.and_assoc, BitVec.and_assoc, BitVec.and_comm r.mask]

theorem opcodeTable_clash : opcodeTable.Pairwise OpcodeRow.Clash := by decide

/-- Settles O3: any two patterns of the map differ in a bit that both masks keep. -/
theorem templatesAreDisjoint : Obligations.TemplatesAreDisjoint :=
  ⟨rfl, opcodeTable_clash.imp OpcodeRow.Clash.disjoint⟩

/-- At most one row of the map matches a word, so the order of the rows does not matter (R66). -/
theorem opcodeRow_unique {r q : OpcodeRow} {op : Word} (hr : r ∈ opcodeTable) (hq : q ∈ opcodeTable)
    (hmr : r.matches op = true) (hmq : q.matches op = true) : r = q := by
  by_contra hne
  have hsymm : Std.Symm OpcodeRow.Clash := ⟨fun _ _ => Ne.symm⟩
  exact (opcodeTable_clash.forall hr hq hne).disjoint op ⟨hmr, hmq⟩

theorem decode_eq_ok_iff {op : Word} {i : Instr} :
    decode op = .ok i ↔ ∃ row ∈ opcodeTable, row.matches op = true ∧ row.build op = i := by
  cases hfind : opcodeTable.find? (fun row : OpcodeRow => row.matches op) with
  | none =>
    have hno := List.find?_eq_none.1 hfind
    simp only [decode, hfind, reduceCtorEq, false_iff]
    rintro ⟨row, hrow, hm, -⟩
    exact hno row hrow hm
  | some q =>
    have hq := List.mem_of_find?_eq_some hfind
    have hmq : q.matches op = true := List.find?_some (p := fun row : OpcodeRow => row.matches op) hfind
    simp only [decode, hfind, Except.ok.injEq]
    constructor
    · exact fun hi => ⟨q, hq, hmq, hi⟩
    · rintro ⟨row, hrow, hm, rfl⟩
      rw [opcodeRow_unique hq hrow hmq hm]

theorem decode_eq_error_iff {op : Word} :
    decode op = .error (.unknownOpcode op) ↔ ∀ row ∈ opcodeTable, ¬ row.matches op = true := by
  constructor
  · intro herr row hrow hm
    have hok := decode_eq_ok_iff.2 ⟨row, hrow, hm, rfl⟩
    simp [herr] at hok
  · intro hno
    rcases decode_cases op with herr | ⟨i, hok⟩
    · exact herr
    · obtain ⟨row, hrow, hm, -⟩ := decode_eq_ok_iff.1 hok
      exact absurd hm (hno row hrow)

theorem forall_mem_opcodeTable {P : OpcodeRow → Prop} :
    (∀ row ∈ opcodeTable, P row) ↔ (∀ row ∈ opcodeRowsLow, P row) ∧ (∀ row ∈ opcodeRowsAlu, P row) ∧
      (∀ row ∈ opcodeRowsMid, P row) ∧ ∀ row ∈ opcodeRowsHigh, P row := by
  simp only [opcodeTable, List.forall_mem_append, and_assoc]

/-! ## What a match says of the word's number -/

section
variable (p : Word) (f : Word → Instr) (op : Word)

theorem matches_F000 : (OpcodeRow.mk 0xF000 p f).matches op = true ↔
    op.toNat / 0x1000 = p.toNat / 0x1000 ∧ p.toNat % 0x1000 = 0 := by
  rw [matches_iff, toNat_and_F000]
  show _ = p.toNat ↔ _
  omega

theorem matches_F00F : (OpcodeRow.mk 0xF00F p f).matches op = true ↔
    op.toNat / 0x1000 = p.toNat / 0x1000 ∧ op.toNat % 0x10 = p.toNat % 0x1000 := by
  rw [matches_iff, toNat_and_F00F]
  show _ = p.toNat ↔ _
  omega

theorem matches_F0FF : (OpcodeRow.mk 0xF0FF p f).matches op = true ↔
    op.toNat / 0x1000 = p.toNat / 0x1000 ∧ op.toNat % 0x100 = p.toNat % 0x1000 := by
  rw [matches_iff, toNat_and_F0FF]
  show _ = p.toNat ↔ _
  omega

theorem matches_FFFF : (OpcodeRow.mk 0xFFFF p f).matches op = true ↔ op.toNat = p.toNat := by
  rw [matches_iff, toNat_and_FFFF]

end

/-! ## The illegal words (R67) -/

/-- Settles O4: a word is illegal when no row matches it, which is a fact about its group nibble and, in groups 5, 8, 9,
E and F, its low bits. -/
theorem illegalWordsAreTheListedOnes : Obligations.IllegalWordsAreTheListedOnes := by
  intro op
  rw [decode_eq_error_iff, forall_mem_opcodeTable]
  simp only [opcodeRowsLow, opcodeRowsAlu, opcodeRowsMid, opcodeRowsHigh, List.forall_mem_cons, matches_F000,
    matches_F00F, matches_F0FF, matches_FFFF]
  have hgroup : op.toNat / 0x1000 < 16 := by omega
  have hzero : op.toNat ≤ 0x0FFF ↔ op.toNat / 0x1000 = 0 := by omega
  rw [hzero]
  generalize op.toNat / 0x1000 = g at *
  interval_cases g <;> simp
  all_goals omega

end Sys2Proof
end

section
/-! PROOFS. The two round trips of the decoder and the encoder, one lemma per form of the map's rows: every
well-formed instruction (O1), every word that decodes (O2), the sample words (O5). -/

namespace Sys2Proof

/-! ## The fields of a packed word (R62, R74) -/

section
variable {g n : Nat} (x y : RegIdx) (kk : Byte) (nnn : Addr12) (hg : g < 16)
include hg

theorem fieldNNN_packNNN : fieldNNN (packNNN g nnn) = nnn := by
  apply BitVec.eq_of_toNat_eq
  rw [toNat_fieldNNN, toNat_packNNN nnn hg]
  omega

theorem fieldX_packXKK : fieldX (packXKK g x kk) = x := by
  apply Fin.ext
  rw [val_fieldX, toNat_packXKK x kk hg]
  omega

theorem fieldKK_packXKK : fieldKK (packXKK g x kk) = kk := by
  apply BitVec.eq_of_toNat_eq
  rw [toNat_fieldKK, toNat_packXKK x kk hg]
  omega

theorem fieldX_packXYN : fieldX (packXYN g x y n) = x := by
  apply Fin.ext
  rw [val_fieldX, toNat_packXYN x y n hg]
  omega

theorem fieldY_packXYN : fieldY (packXYN g x y n) = y := by
  apply Fin.ext
  rw [val_fieldY, toNat_packXYN x y n hg]
  omega

theorem fieldN_packXYN (hn : n < 16) : fieldN (packXYN g x y n) = n := by
  rw [fieldN_eq, toNat_packXYN x y n hg]
  omega

end

/-! ## Decoding a packed word -/

section
variable {g : Nat} (hg : g < 16)
include hg

theorem decode_packNNN {f : Addr12 → Instr} (nnn : Addr12)
    (hrow : ⟨0xF000, BitVec.ofNat 16 (g * 0x1000), fun op => f (fieldNNN op)⟩ ∈ opcodeTable) :
    decode (packNNN g nnn) = .ok (f nnn) := by
  refine decode_eq_ok_iff.2 ⟨_, hrow, (matches_F000 _ _ _).2 ?_, congrArg f (fieldNNN_packNNN nnn hg)⟩
  rw [toNat_packNNN nnn hg, BitVec.toNat_ofNat]
  omega

theorem decode_packXKK {f : RegIdx → Byte → Instr} (x : RegIdx) (kk : Byte)
    (hrow : ⟨0xF000, BitVec.ofNat 16 (g * 0x1000), fun op => f (fieldX op) (fieldKK op)⟩ ∈ opcodeTable) :
    decode (packXKK g x kk) = .ok (f x kk) := by
  refine decode_eq_ok_iff.2 ⟨_, hrow, (matches_F000 _ _ _).2 ?_,
    congrArg₂ f (fieldX_packXKK x kk hg) (fieldKK_packXKK x kk hg)⟩
  rw [toNat_packXKK x kk hg, BitVec.toNat_ofNat]
  omega

/-- The rows whose low byte is literal. -/
theorem decode_packXKK_literal {f : RegIdx → Instr} {kk : Byte} (x : RegIdx)
    (hrow : ⟨0xF0FF, BitVec.ofNat 16 (g * 0x1000 + kk.toNat), fun op => f (fieldX op)⟩ ∈ opcodeTable) :
    decode (packXKK g x kk) = .ok (f x) := by
  refine decode_eq_ok_iff.2 ⟨_, hrow, (matches_F0FF _ _ _).2 ?_, congrArg f (fieldX_packXKK x kk hg)⟩
  rw [toNat_packXKK x kk hg, BitVec.toNat_ofNat]
  omega

theorem decode_packXYN {f : RegIdx → RegIdx → Nat → Instr} {n : Nat} (x y : RegIdx) (hn : n < 16)
    (hrow : ⟨0xF000, BitVec.ofNat 16 (g * 0x1000), fun op => f (fieldX op) (fieldY op) (fieldN op)⟩ ∈ opcodeTable) :
    decode (packXYN g x y n) = .ok (f x y n) := by
  refine decode_eq_ok_iff.2 ⟨_, hrow, (matches_F000 _ _ _).2 ?_, ?_⟩
  · rw [toNat_packXYN x y n hg, BitVec.toNat_ofNat]
    omega
  · simp only [fieldX_packXYN x y hg, fieldY_packXYN x y hg, fieldN_packXYN x y hg hn]

/-- The rows whose final nibble is literal. -/
theorem decode_packXYN_literal {f : RegIdx → RegIdx → Instr} {n : Nat} (x y : RegIdx) (hn : n < 16)
    (hrow : ⟨0xF00F, BitVec.ofNat 16 (g * 0x1000 + n), fun op => f (fieldX op) (fieldY op)⟩ ∈ opcodeTable) :
    decode (packXYN g x y n) = .ok (f x y) := by
  refine decode_eq_ok_iff.2 ⟨_, hrow, (matches_F00F _ _ _).2 ?_,
    congrArg₂ f (fieldX_packXYN x y hg) (fieldY_packXYN x y hg)⟩
  rw [toNat_packXYN x y n hg, BitVec.toNat_ofNat]
  omega

end

/-- The row of an instruction: the constructors stand in the order of the map (R65). -/
def Instr.row (i : Instr) : OpcodeRow := opcodeTable[i.ctorIdx]'(by cases i <;> exact of_decide_eq_true rfl)

theorem Instr.row_mem (i : Instr) : i.row ∈ opcodeTable := List.getElem_mem _

theorem Instr.drw_rows_lt {x y : RegIdx} {n : Nat} (h : (Instr.drw x y n).wellFormed = true) : n < 16 :=
  Nat.lt_succ_of_le (of_decide_eq_true h)

/-- Settles O1: an instruction's word is packed in the form of its own row, which is a row of the map. -/
theorem decodeInvertsEncode : Obligations.DecodeInvertsEncode := by
  intro i hwf
  have hrow := i.row_mem
  cases i with
  | cls | ret => rfl
  | jp nnn | call nnn | ldI nnn | jpV0 nnn => exact decode_packNNN (by decide) nnn hrow
  | seByte x kk | sneByte x kk | ldByte x kk | addByte x kk | rnd x kk => exact decode_packXKK (by decide) x kk hrow
  | drw x y n => exact decode_packXYN (by decide) x y (Instr.drw_rows_lt hwf) hrow
  | seReg x y | ldReg x y | orReg x y | andReg x y | xorReg x y | addReg x y | subReg x y | shr x y | subn x y
  | shl x y | sneReg x y => exact decode_packXYN_literal (by decide) x y (by decide) hrow
  | skp x | sknp x | ldVxDt x | ldVxK x | ldDtVx x | ldStVx x | addI x | ldF x | ldB x | ldMemVx x | ldVxMem x =>
    exact decode_packXKK_literal (by decide) x hrow

/-! ## Encoding a decoded word -/

/-- A row drops no bit of a word it matches: what it builds is well-formed and encodes to the word. -/
def OpcodeRow.Faithful (row : OpcodeRow) : Prop :=
  ∀ op, row.matches op = true → encode (row.build op) = op ∧ (row.build op).wellFormed = true

section
variable {g n : Nat} {p : Word}

theorem faithful_constant {i : Instr} (hi : encode i = p ∧ i.wellFormed = true) :
    OpcodeRow.Faithful ⟨0xFFFF, p, fun _ => i⟩ := by
  intro op hm
  have hop : op = p := BitVec.eq_of_toNat_eq ((matches_FFFF _ _ _).1 hm)
  exact hop ▸ hi

theorem faithful_NNN {f : Addr12 → Instr}
    (hf : ∀ nnn, encode (f nnn) = packNNN g nnn ∧ (f nnn).wellFormed = true) (hp : p.toNat = g * 0x1000) :
    OpcodeRow.Faithful ⟨0xF000, p, fun op => f (fieldNNN op)⟩ := by
  intro op hm
  obtain ⟨hgroup, -⟩ := (matches_F000 _ _ _).1 hm
  obtain ⟨henc, hwf⟩ := hf (fieldNNN op)
  exact ⟨henc.trans (packNNN_fields (by omega)), hwf⟩

theorem faithful_XKK {f : RegIdx → Byte → Instr}
    (hf : ∀ x kk, encode (f x kk) = packXKK g x kk ∧ (f x kk).wellFormed = true) (hp : p.toNat = g * 0x1000) :
    OpcodeRow.Faithful ⟨0xF000, p, fun op => f (fieldX op) (fieldKK op)⟩ := by
  intro op hm
  obtain ⟨hgroup, -⟩ := (matches_F000 _ _ _).1 hm
  obtain ⟨henc, hwf⟩ := hf (fieldX op) (fieldKK op)
  exact ⟨henc.trans (packXKK_fields (by omega) (toNat_fieldKK op).symm), hwf⟩

theorem faithful_XKK_literal {f : RegIdx → Instr} {kk : Byte}
    (hf : ∀ x, encode (f x) = packXKK g x kk ∧ (f x).wellFormed = true) (hp : p.toNat = g * 0x1000 + kk.toNat) :
    OpcodeRow.Faithful ⟨0xF0FF, p, fun op => f (fieldX op)⟩ := by
  intro op hm
  obtain ⟨hgroup, hbyte⟩ := (matches_F0FF _ _ _).1 hm
  obtain ⟨henc, hwf⟩ := hf (fieldX op)
  exact ⟨henc.trans (packXKK_fields (by omega) (by omega)), hwf⟩

theorem faithful_XYN_literal {f : RegIdx → RegIdx → Instr}
    (hf : ∀ x y, encode (f x y) = packXYN g x y n ∧ (f x y).wellFormed = true) (hn : n < 16)
    (hp : p.toNat = g * 0x1000 + n) : OpcodeRow.Faithful ⟨0xF00F, p, fun op => f (fieldX op) (fieldY op)⟩ := by
  intro op hm
  obtain ⟨hgroup, hnibble⟩ := (matches_F00F _ _ _).1 hm
  obtain ⟨henc, hwf⟩ := hf (fieldX op) (fieldY op)
  exact ⟨henc.trans (packXYN_fields (by omega) (by omega)), hwf⟩

end

theorem faithful_drw : OpcodeRow.Faithful ⟨0xF000, 0xD000, fun op => .drw (fieldX op) (fieldY op) (fieldN op)⟩ := by
  intro op hm
  obtain ⟨hgroup, -⟩ := (matches_F000 _ _ _).1 hm
  have hn := fieldN_eq op
  exact ⟨packXYN_fields hgroup (by omega), decide_eq_true (by omega)⟩

theorem opcodeTable_faithful : ∀ row ∈ opcodeTable, row.Faithful := by
  refine forall_mem_opcodeTable.2 ⟨?low, ?alu, ?mid, ?high⟩
  case low =>
    simp only [opcodeRowsLow, List.forall_mem_cons]
    exact ⟨faithful_constant ⟨rfl, rfl⟩, faithful_constant ⟨rfl, rfl⟩,
      faithful_NNN (fun _ => ⟨rfl, rfl⟩) rfl, faithful_NNN (fun _ => ⟨rfl, rfl⟩) rfl,
      faithful_XKK (fun _ _ => ⟨rfl, rfl⟩) rfl, faithful_XKK (fun _ _ => ⟨rfl, rfl⟩) rfl,
      faithful_XYN_literal (fun _ _ => ⟨rfl, rfl⟩) (by decide) rfl,
      faithful_XKK (fun _ _ => ⟨rfl, rfl⟩) rfl, faithful_XKK (fun _ _ => ⟨rfl, rfl⟩) rfl, nofun⟩
  case alu =>
    simp only [opcodeRowsAlu, List.forall_mem_cons]
    refine ⟨?_, ?_, ?_, ?_, ?_, ?_, ?_, ?_, ?_, nofun⟩ <;>
      exact faithful_XYN_literal (fun _ _ => ⟨rfl, rfl⟩) (by decide) rfl
  case mid =>
    simp only [opcodeRowsMid, List.forall_mem_cons]
    exact ⟨faithful_XYN_literal (fun _ _ => ⟨rfl, rfl⟩) (by decide) rfl,
      faithful_NNN (fun _ => ⟨rfl, rfl⟩) rfl, faithful_NNN (fun _ => ⟨rfl, rfl⟩) rfl,
      faithful_XKK (fun _ _ => ⟨rfl, rfl⟩) rfl, faithful_drw,
      faithful_XKK_literal (fun _ => ⟨rfl, rfl⟩) rfl, faithful_XKK_literal (fun _ => ⟨rfl, rfl⟩) rfl, nofun⟩
  case high =>
    simp only [opcodeRowsHigh, List.forall_mem_cons]
    refine ⟨?_, ?_, ?_, ?_, ?_, ?_, ?_, ?_, ?_, nofun⟩ <;>
      exact faithful_XKK_literal (fun _ => ⟨rfl, rfl⟩) rfl

/-- Settles O2: a word decodes by a row that matches it, and every row of the map is faithful. -/
theorem encodeInvertsDecode : Obligations.EncodeInvertsDecode := by
  intro op i h
  obtain ⟨row, hrow, hm, rfl⟩ := decode_eq_ok_iff.1 h
  exact opcodeTable_faithful row hrow op hm

/-- Settles O5: each word is the encoding of its instruction, so O1 decodes it. -/
theorem sampleWordsDecode : Obligations.SampleWordsDecode :=
  ⟨decodeInvertsEncode (.addReg 3 4) rfl, decodeInvertsEncode (.drw 0 1 5) rfl, decodeInvertsEncode (.shl 15 15) rfl,
    decodeInvertsEncode (.seByte 2 0x10) rfl, decodeInvertsEncode (.call 0x400) rfl,
    decodeInvertsEncode (.jpV0 0xFFF) rfl, decodeInvertsEncode .cls rfl, decodeInvertsEncode (.sknp 1) rfl,
    decodeInvertsEncode (.ldVxK 3) rfl, decodeInvertsEncode (.ldMemVx 2) rfl, decodeInvertsEncode (.ldI 0x2F0) rfl⟩

end Sys2Proof
end

section
/-! PROOFS. The cycle (R70): every instruction and every step has a next state (O13), an instruction that raises
records its own address, and a step is its clauses (O8). -/

namespace Sys2Proof.Machine

theorem complete_total (s : State) (r : Except FaultKind State) : ∃ t, complete s r = .next t := by
  cases r with
  | ok t => exact ⟨t, complete_ok s t⟩
  | error k => exact ⟨_, complete_error s k⟩

/-- Every instruction has a next state: it is given outright, chosen by the lowest pressed key, or ends in
`complete`, which latches a fault (R113). -/
theorem exec_total (i : Instr) (s : State) : ∃ t, exec i s = .next t := by
  cases i
  case ret | call nnn | drw x y n | skp x | sknp x | ldB x | ldMemVx x | ldVxMem x => exact complete_total s _
  case ldVxK x =>
    cases hkey : lowestPressed s with
    | none => exact ⟨_, exec_ldVxK_none hkey⟩
    | some k => exact ⟨_, exec_ldVxK_some hkey⟩
  all_goals exact ⟨_, rfl⟩

/-- Settles O13: each outcome of a step is a next state, an instruction's by `exec_total`. -/
theorem everyStepHasANextState : Obligations.EveryStepHasANextState := by
  intro s
  rcases step_cases (s := s) rfl with ⟨-, hr⟩ | ⟨-, -, hr⟩ | ⟨op, -, -, -, ⟨-, hr⟩ | ⟨i, -, hr⟩⟩
  · exact ⟨_, hr⟩
  · exact ⟨_, hr⟩
  · exact ⟨_, hr⟩
  · rw [hr]; exact exec_total i _

/-- A fault latched by an instruction holds the instruction's address (R70, R113). -/
theorem exec_fault_pc {i : Instr} {s t : State} {r : FaultRecord} (h : exec i s = .next t) (hs : s.fault = none)
    (ht : t.fault = some r) : r.pc = s.pc0 := by
  rcases exec_frame h with ⟨k, rfl⟩ | hf
  · cases ht; rfl
  · have hkept : t.fault = s.fault := by cases i <;> exact (congrArg State.fault hf :)
    simp [hkept, hs] at ht

/-- The record of a fault latched by a live core's step holds the PC before the step (R70). -/
theorem step_fault_pc {s t : State} {r : FaultRecord} (hl : s.Live) (h : step s = .next t) (ht : t.fault = some r) :
    r.pc = s.pc := by
  rcases step_cases h with ⟨hn, -⟩ | ⟨-, -, hr⟩ | ⟨op, -, -, -, ⟨-, hr⟩ | ⟨i, -, hr⟩⟩
  · exact absurd hl hn
  · cases hr; cases ht; rfl
  · cases hr; cases ht; rfl
  · exact (exec_fault_pc hr.symm hl.2 ht).trans (pc0_advancePc (timerTick s))

/-- Settles O8, by the equations of the step's outcomes, the decoder's two answers and the fault record's address. -/
theorem stepRunsTheDecodedInstruction : Obligations.StepRunsTheDecodedInstruction := by
  intro s
  refine ⟨fun hidle => step_of_not_live ?_, fun hl => ⟨fun k hk => ?_, fun op hop => ⟨?_, ?_, ?_⟩, ?_⟩⟩
  · rintro ⟨hrun, hfault⟩
    simp [hrun, hfault] at hidle
  · rcases fetchWord_cases hk with ⟨hpc, hr⟩ | ⟨-, hr⟩
    · cases hr; exact step_of_fetchFault hl hpc
    · cases hr
  · exact fun i => step_of_decoded hl hop
  · exact step_of_unknownOpcode hl hop
  · exact decode_cases op
  · exact fun t r => step_fault_pc hl

end Sys2Proof.Machine
end

section
/-! PROOFS. The words written out from the templates are the encodings (R62, R74), so by O1 they decode to their
instructions: what every statement about one instruction says of its word. -/

namespace Sys2Proof.Machine

/-- A word that encodes a well-formed instruction also decodes to it. -/
theorem encodes_of_encode_eq {i : Instr} {w : Word} (hwf : i.wellFormed = true) (h : encode i = w) : Encodes w i :=
  ⟨h ▸ decodeInvertsEncode i hwf, h⟩

section
variable {g : Nat} (hg : g < 16)
include hg

theorem packNNN_eq_wordNNN (nnn : Addr12) : packNNN g nnn = wordNNN g nnn := by
  apply BitVec.eq_of_toNat_eq
  rw [toNat_packNNN nnn hg, wordNNN, BitVec.toNat_ofNat]
  omega

theorem packXKK_eq_wordXKK (x : RegIdx) (kk : Byte) : packXKK g x kk = wordXKK g x kk := by
  apply BitVec.eq_of_toNat_eq
  rw [toNat_packXKK x kk hg, wordXKK, BitVec.toNat_ofNat]
  omega

theorem packXYN_eq_wordXYN {n : Nat} (x y : RegIdx) (hn : n < 16) : packXYN g x y n = wordXYN g x y n := by
  apply BitVec.eq_of_toNat_eq
  rw [toNat_packXYN x y n hg, wordXYN, BitVec.toNat_ofNat]
  omega

theorem encodes_wordNNN {i : Instr} {nnn : Addr12} (hwf : i.wellFormed = true) (h : encode i = packNNN g nnn) :
    Encodes (wordNNN g nnn) i :=
  encodes_of_encode_eq hwf (h.trans (packNNN_eq_wordNNN hg nnn))

theorem encodes_wordXKK {i : Instr} {x : RegIdx} {kk : Byte} (hwf : i.wellFormed = true)
    (h : encode i = packXKK g x kk) : Encodes (wordXKK g x kk) i :=
  encodes_of_encode_eq hwf (h.trans (packXKK_eq_wordXKK hg x kk))

theorem encodes_wordXYN {i : Instr} {x y : RegIdx} {n : Nat} (hn : n < 16) (hwf : i.wellFormed = true)
    (h : encode i = packXYN g x y n) : Encodes (wordXYN g x y n) i :=
  encodes_of_encode_eq hwf (h.trans (packXYN_eq_wordXYN hg x y hn))

end

end Sys2Proof.Machine
end

section
/-! PROOFS. Control flow: RET and CALL on the stack (O29, O31), the jumps (O30, O33), the compare skips (O32). -/

namespace Sys2Proof.Machine

/-! ## One entry more on the stack (R24, R25) -/

section
variable {s t : State} {v : Word} (h : s.stack = v :: t.stack)
include h

theorem sp_eq_succ : s.sp = t.sp + 1 := congrArg List.length h

/-- The entry more is the one at the shorter stack's `SP`. -/
theorem stackEntry_top : s.stackEntry t.sp = some v := by
  simp [State.stackEntry, State.sp, h]

theorem stackEntry_lower {k : Nat} (hk : k < t.sp) : s.stackEntry k = t.stackEntry k := by
  rw [State.stackEntry, h, List.reverse_cons, List.getElem?_append_left (by rwa [List.length_reverse])]
  rfl

end

/-! ## The operand NNN (R63) -/

/-- `zext_16(NNN)` is the word of the same number. -/
theorem addrOperand_eq_ofNat (nnn : Addr12) : addrOperand nnn = BitVec.ofNat 16 nnn.toNat :=
  (BitVec.ofNat_toNat 16 nnn).symm

/-! ## RET and CALL (R75, R77) -/

theorem exec_ret_empty {s : State} (h : s.stack = []) : exec .ret s = .next (raise .stackUnderflow s.pc0 s) := by
  simp [exec, execRet, pop, h, Except.map]

theorem exec_ret_cons {s : State} {v : Word} {rest : List Word} (h : s.stack = v :: rest) :
    exec .ret s = .next { s with stack := rest, pc := v } := by
  simp [exec, execRet, pop, h, Except.map, State.setPc]

/-- RET on a stack that is not empty, by the state it leads to: one entry less, and that entry is PC. -/
theorem exec_ret_nonempty {s : State} (h : 0 < s.sp) :
    ∃ v t, s.stack = v :: t.stack ∧ exec .ret s = .next t ∧ t = { s with stack := t.stack, pc := v } := by
  obtain ⟨v, rest, hs⟩ := List.exists_cons_of_length_pos h
  exact ⟨v, _, hs, exec_ret_cons hs, rfl⟩

theorem exec_call_full (nnn : Addr12) {s : State} (h : s.sp = stackDepth) :
    exec (.call nnn) s = .next (raise .stackOverflow s.pc0 s) := by
  simp [exec, execCall, push, h, Except.map]

theorem exec_call_room (nnn : Addr12) {s : State} (h : s.sp ≠ stackDepth) :
    exec (.call nnn) s = .next { s with stack := s.pc :: s.stack, pc := BitVec.ofNat 16 nnn.toNat } := by
  simp [exec, execCall, push, h, Except.map, State.setPc, addrOperand_eq_ofNat]

/-- Settles O29: an empty stack raises, and a stack with a top entry is that of the next state with one entry more. -/
theorem returnPopsTheStack : Obligations.ReturnPopsTheStack := by
  refine ⟨encodes_of_encode_eq rfl rfl, fun s => ⟨fun hsp => ?_, fun hsp => ?_⟩⟩
  · exact exec_ret_empty (List.length_eq_zero_iff.1 hsp)
  · obtain ⟨v, t, hst, hexec, hframe⟩ := exec_ret_nonempty hsp
    have ht : t.sp = s.sp - 1 := by rw [sp_eq_succ hst, Nat.add_sub_cancel]
    exact ⟨v, t, ht ▸ stackEntry_top hst, hexec, hframe, ht, fun k hk => (stackEntry_lower hst hk).symm⟩

/-- Settles O31: a full stack raises, and with room the next state's stack has the advanced PC as its one entry more. -/
theorem callPushesTheAdvancedPc : Obligations.CallPushesTheAdvancedPc := by
  refine fun nnn s => ⟨encodes_wordNNN (by decide) rfl rfl, exec_call_full nnn, fun hsp => ?_⟩
  exact ⟨_, exec_call_room nnn hsp, rfl, sp_eq_succ rfl, stackEntry_top rfl, fun k => stackEntry_lower rfl⟩

/-! ## The jumps (R76, R82) -/

theorem exec_jp (nnn : Addr12) (s : State) : exec (.jp nnn) s = .next { s with pc := BitVec.ofNat 16 nnn.toNat } := by
  rw [← addrOperand_eq_ofNat]
  rfl

/-- Settles O30, by the jump's equation. -/
theorem jumpSetsThePc : Obligations.JumpSetsThePc := fun nnn s =>
  ⟨encodes_wordNNN (by decide) rfl rfl, exec_jp nnn s⟩

/-- Settles O33: the target is the exact sum, of a 12-bit and an 8-bit number. -/
theorem indexedJumpAddsRegisterZero : Obligations.IndexedJumpAddsRegisterZero := by
  intro nnn s
  have htarget := toNat_indexedTarget nnn s
  refine ⟨encodes_wordNNN (by decide) rfl rfl, s.setPc (indexedTarget nnn s), rfl, rfl, htarget, ?_⟩
  rw [setPc_pc, htarget]
  omega

/-! ## The compare skips (R78 to R81) -/

/-- A skip moves PC alone, and by 2 exactly when its condition holds (R14). -/
theorem next_skipIf_of_iff (s : State) {c : Bool} {p : Prop} [Decidable p] (h : c = true ↔ p) :
    (.next (s.skipIf c) : Host.Outcome State Fault Refusal) =
      .next { s with pc := if p then s.pc + 2 else s.pc } := by
  rw [skipIf_frame, skipIf_pc]
  simp only [h]

/-- Settles O32: each is a skip whose condition is its comparison. -/
theorem skipsCompareRegisters : Obligations.SkipsCompareRegisters := fun x y kk s =>
  ⟨encodes_wordXKK (by decide) rfl rfl, encodes_wordXKK (by decide) rfl rfl,
    encodes_wordXYN (by decide) (by decide) rfl rfl, encodes_wordXYN (by decide) (by decide) rfl rfl,
    next_skipIf_of_iff s beq_iff_eq, next_skipIf_of_iff s bne_iff_ne, next_skipIf_of_iff s beq_iff_eq,
    next_skipIf_of_iff s bne_iff_ne⟩

end Sys2Proof.Machine
end

section
/-! PROOFS. Registers and ALU: the loads and 7XKK (O34), the logic operations (O35), ADD (O36), SUB and SUBN (O37),
the shifts (O38), RND (O39).  Each writes one result, or a result and then VF: what a register holds after such a
write is said first, then what the flag computations are in numbers. -/

namespace Sys2Proof.Machine

/-! ## One result -/

section
variable {s : State} {x k : RegIdx} {v : Byte}

theorem reg_setReg_same : (s.setReg x v).reg x = v := by
  rw [reg_setReg, if_pos rfl]

theorem reg_setReg_other (hk : k ≠ x) : (s.setReg x v).reg k = s.reg k := by
  rw [reg_setReg, if_neg hk]

/-! ## A result, and the logic quirk after it (R87 to R89) -/

theorem reg_logicFlag_other (hk : k ≠ 15) : s.logicFlag.reg k = s.reg k := by
  rw [reg_logicFlag, if_neg fun h => hk h.2]

theorem reg_logicFlag_off (hq : s.cfg.quirkLogicVfReset = false) : s.logicFlag.reg k = s.reg k := by
  rw [reg_logicFlag, if_neg fun h => Bool.false_ne_true (hq.symm.trans h.1)]

theorem vf_logicFlag_on (hq : s.cfg.quirkLogicVfReset = true) : s.logicFlag.reg 15 = 0 := by
  rw [reg_logicFlag, if_pos ⟨hq, rfl⟩]

/-- The result stands unless the quirk clears the register it was written to. -/
theorem reg_setReg_logicFlag_same (h : s.cfg.quirkLogicVfReset = false ∨ x ≠ 15) :
    (s.setReg x v).logicFlag.reg x = v := by
  rcases h with hq | hx
  · exact (reg_logicFlag_off (s := s.setReg x v) hq).trans reg_setReg_same
  · exact (reg_logicFlag_other hx).trans reg_setReg_same

theorem reg_setReg_logicFlag_other (hx : k ≠ x) (hk : k ≠ 15) : (s.setReg x v).logicFlag.reg k = s.reg k :=
  (reg_logicFlag_other hk).trans (reg_setReg_other hx)

theorem vf_setReg_logicFlag_off (hq : s.cfg.quirkLogicVfReset = false) (hx : x ≠ 15) :
    (s.setReg x v).logicFlag.reg 15 = s.reg 15 :=
  (reg_logicFlag_off (s := s.setReg x v) hq).trans (reg_setReg_other hx.symm)

/-! ## A result, and the flag written last (R13, R19) -/

variable {f : Byte}

theorem reg_setResultAndFlag_result (hx : x ≠ 15) : (s.setResultAndFlag x v f).reg x = v :=
  (reg_setReg_other hx).trans reg_setReg_same

theorem reg_setResultAndFlag_flag : (s.setResultAndFlag x v f).reg 15 = f :=
  reg_setReg_same

theorem reg_setResultAndFlag_other (hx : k ≠ x) (hk : k ≠ 15) : (s.setResultAndFlag x v f).reg k = s.reg k :=
  (reg_setReg_other hk).trans (reg_setReg_other hx)

end

/-! ## The flags in numbers (R90 to R94) -/

theorem toNat_flagByte (b : Bool) : (flagByte b).toNat = b.toNat := by
  cases b <;> rfl

/-- The carry is the ninth bit of the sum. -/
theorem toNat_carryFlag (a b : Byte) : (carryFlag a b).toNat = (a.toNat + b.toNat) / 256 := by
  rw [carryFlag, toNat_flagByte]
  by_cases h : a.toNat + b.toNat > 0xFF
  · rw [decide_eq_true h, Bool.toNat_true]
    omega
  · rw [decide_eq_false h, Bool.toNat_false]
    omega

theorem notBorrowFlag_of_ge {a b : Byte} (h : a.toNat ≥ b.toNat) : notBorrowFlag a b = 1 := by
  rw [notBorrowFlag, decide_eq_true h]
  rfl

theorem notBorrowFlag_of_lt {a b : Byte} (h : a.toNat < b.toNat) : notBorrowFlag a b = 0 := by
  rw [notBorrowFlag, decide_eq_false (Nat.not_le.2 h)]
  rfl

theorem toNat_difference (a b : Byte) : (a - b).toNat = (a.toNat + 256 - b.toNat) % 256 := by
  rw [BitVec.toNat_sub]
  omega

theorem toNat_shiftedOutRight (src : Byte) : (shiftedOutRight src).toNat = src.toNat % 2 := by
  rw [shiftedOutRight, toNat_flagByte, BitVec.getLsbD, Nat.toNat_testBit, pow_zero, Nat.div_one]

theorem toNat_shiftedOutLeft (src : Byte) : (shiftedOutLeft src).toNat = src.toNat / 128 := by
  rw [shiftedOutLeft, toNat_flagByte, BitVec.getLsbD, Nat.toNat_testBit]
  omega

theorem toNat_shiftedRight (src : Byte) : (src >>> 1).toNat = src.toNat / 2 := by
  rw [BitVec.toNat_ushiftRight, Nat.shiftRight_eq_div_pow, pow_one]

theorem toNat_shiftedLeft (src : Byte) : (src <<< 1).toNat = src.toNat * 2 % 256 := by
  rw [BitVec.toNat_shiftLeft, Nat.shiftLeft_eq, pow_one]

/-! ## The instructions -/

/-- Settles O34: each writes its one result. -/
theorem registerLoadsAndIncrement : Obligations.RegisterLoadsAndIncrement := by
  refine fun x y kk s => ⟨encodes_wordXKK (by decide) rfl rfl, encodes_wordXKK (by decide) rfl rfl,
    encodes_wordXYN (by decide) (by decide) rfl rfl, ⟨s.setReg x kk, rfl, rfl, reg_setReg_same, ?_⟩,
    ⟨s.setReg x (s.reg x + kk), rfl, rfl, ?_, ?_⟩, ⟨s.setReg x (s.reg y), rfl, rfl, reg_setReg_same, ?_⟩⟩
  · exact fun k => reg_setReg_other
  · rw [reg_setReg_same, BitVec.toNat_add]
  · exact fun k => reg_setReg_other
  · exact fun k => reg_setReg_other

/-- Settles O35: each writes its bitwise result, and the quirk's write of VF follows. -/
theorem logicOperations : Obligations.LogicOperations := by
  intro x y s
  refine ⟨encodes_wordXYN (by decide) (by decide) rfl rfl, encodes_wordXYN (by decide) (by decide) rfl rfl,
    encodes_wordXYN (by decide) (by decide) rfl rfl, _, _, _, rfl, rfl, rfl, logicFlag_frame _, logicFlag_frame _,
    logicFlag_frame _, fun k hx hk => ?_, fun hq => ?_, fun hq hx => ?_, fun h b _ => ?_⟩
  · exact ⟨reg_setReg_logicFlag_other hx hk, reg_setReg_logicFlag_other hx hk, reg_setReg_logicFlag_other hx hk⟩
  · exact ⟨vf_logicFlag_on hq, vf_logicFlag_on hq, vf_logicFlag_on hq⟩
  · exact ⟨vf_setReg_logicFlag_off hq hx, vf_setReg_logicFlag_off hq hx, vf_setReg_logicFlag_off hq hx⟩
  · simp only [reg_setReg_logicFlag_same h, BitVec.getLsbD_or, BitVec.getLsbD_and, BitVec.getLsbD_xor, and_self]

/-- Settles O36: the sum, then the carry of the operands' old values. -/
theorem addSetsTheCarry : Obligations.AddSetsTheCarry := by
  intro x y s
  refine ⟨encodes_wordXYN (by decide) (by decide) rfl rfl, _, rfl, rfl, fun hx => ?_, ?_,
    fun k => reg_setResultAndFlag_other⟩
  · rw [reg_setResultAndFlag_result hx, BitVec.toNat_add]
  · rw [reg_setResultAndFlag_flag, toNat_carryFlag]

/-- A difference and its not-borrow written to X and VF: what SUB and SUBN do, each in its operand order. -/
theorem exists_next_difference {i : Instr} {s : State} {x : RegIdx} {a b : Byte}
    (h : exec i s = .next (s.setResultAndFlag x (a - b) (notBorrowFlag a b))) :
    ∃ t, exec i s = .next t ∧ t = { s with regs := t.regs } ∧
      (x ≠ 15 → (t.reg x).toNat = (a.toNat + 256 - b.toNat) % 256) ∧
      (a.toNat ≥ b.toNat → t.reg 15 = 1) ∧ (a.toNat < b.toNat → t.reg 15 = 0) ∧
      ∀ k, k ≠ x → k ≠ 15 → t.reg k = s.reg k := by
  refine ⟨_, h, rfl, fun hx => ?_, fun hge => ?_, fun hlt => ?_, fun k => reg_setResultAndFlag_other⟩
  · rw [reg_setResultAndFlag_result hx, toNat_difference]
  · rw [reg_setResultAndFlag_flag, notBorrowFlag_of_ge hge]
  · rw [reg_setResultAndFlag_flag, notBorrowFlag_of_lt hlt]

/-- Settles O37: both are the difference with its not-borrow, in the two operand orders. -/
theorem subtractionsSetNotBorrow : Obligations.SubtractionsSetNotBorrow := fun _ _ _ =>
  ⟨encodes_wordXYN (by decide) (by decide) rfl rfl, encodes_wordXYN (by decide) (by decide) rfl rfl,
    exists_next_difference rfl, exists_next_difference rfl⟩

/-- Settles O38: the source is the model's `shiftSource`, and the flag is the bit of it that the shift moves out. -/
theorem shiftsSetTheShiftedOutBit : Obligations.ShiftsSetTheShiftedOutBit := by
  intro x y s src hsrc
  obtain rfl : src = shiftSource x y s := hsrc
  refine ⟨encodes_wordXYN (by decide) (by decide) rfl rfl, encodes_wordXYN (by decide) (by decide) rfl rfl,
    ⟨_, rfl, rfl, fun hx => ?_, ?_, fun k => reg_setResultAndFlag_other⟩,
    ⟨_, rfl, rfl, fun hx => ?_, ?_, fun k => reg_setResultAndFlag_other⟩⟩
  · rw [reg_setResultAndFlag_result hx, toNat_shiftedRight]
  · rw [reg_setResultAndFlag_flag, toNat_shiftedOutRight]
  · rw [reg_setResultAndFlag_result hx, toNat_shiftedLeft]
  · rw [reg_setResultAndFlag_flag, toNat_shiftedOutLeft]

/-- Settles O39: the draw moves the index by one, and its masked byte is the one result. -/
theorem randomIsAMaskedDraw : Obligations.RandomIsAMaskedDraw := fun _ _ _ =>
  ⟨encodes_wordXKK (by decide) rfl rfl, _, rfl, rfl, reg_setReg_same, fun _ => reg_setReg_other⟩

end Sys2Proof.Machine
end

section
/-! PROOFS. The display: which instructions and ports leave it alone (O23), CLS (O40), DRW (O41), and the same sprite
drawn twice (O42), which rests on the blit being its own inverse. -/

namespace Sys2Proof.Machine

/-! ## What leaves the display alone (R99) -/

/-- The key port writes the keys and nothing else (R127). -/
theorem updateKey_frame (k : Nat) (p : Bool) (s : State) :
    (updateKey k p s).2 = { s with keys := (updateKey k p s).2.keys } := by
  unfold updateKey
  split <;> rfl

/-- Settles O23: the display is in the frame of CLS and DRW only, and the ports' frames leave it out. -/
theorem onlyClearAndDrawChangeTheDisplay : Obligations.OnlyClearAndDrawChangeTheDisplay := by
  refine ⟨fun i s t h hne => ?_, fun s => ⟨rfl, ?_, fun _ => rfl⟩⟩
  · rcases exec_frame h with ⟨k, rfl⟩ | hf
    · exact absurd rfl hne
    cases i
    case cls => exact .inl rfl
    case drw x y n => exact .inr ⟨x, y, n, rfl⟩
    all_goals exact absurd (congrArg State.disp hf :) hne
  · exact fun k p => (congrArg State.disp (updateKey_frame k p s) :)

/-- Settles O40: the new display is the blank one. -/
theorem clearTurnsEveryCellOff : Obligations.ClearTurnsEveryCellOff :=
  ⟨encodes_of_encode_eq rfl rfl, fun _ => ⟨_, rfl, rfl, cellAt_blankDisplay⟩⟩

/-! ## A blit, and the same blit again

The laws of `blitRows`, with the flag cleared at the start; a sprite of at most 32 rows falls on no cell twice. -/

section
variable {x0 y0 : Nat} {rows : List Byte} {d : Display}

theorem cellAt_blit_same {r c : Nat} (hn : rows.length ≤ 32) (hr : r < rows.length) (hc : c < 8) :
    cellAt (blit x0 y0 rows d).1 (Fin.ofNat 64 (x0 + c)) (Fin.ofNat 32 (y0 + r)) =
      (cellAt d (Fin.ofNat 64 (x0 + c)) (Fin.ofNat 32 (y0 + r)) ^^ rows[r].getLsbD (7 - c)) :=
  cellAt_blitRows_same x0 (d, false) hn hr hc

theorem cellAt_blit_other {px : Fin 64} {py : Fin 32}
    (h : ∀ r c, r < rows.length → c < 8 → ¬ (px = Fin.ofNat 64 (x0 + c) ∧ py = Fin.ofNat 32 (y0 + r))) :
    cellAt (blit x0 y0 rows d).1 px py = cellAt d px py :=
  cellAt_blitRows_other x0 (d, false) h

theorem blit_hit_iff (hn : rows.length ≤ 32) :
    (blit x0 y0 rows d).2 = true ↔ ∃ r c, ∃ h : r < rows.length, c < 8 ∧ rows[r].getLsbD (7 - c) = true ∧
      cellAt d (Fin.ofNat 64 (x0 + c)) (Fin.ofNat 32 (y0 + r)) = true :=
  (blitRows_hit x0 (d, false) hn).trans (or_iff_right Bool.false_ne_true)

/-- A blit undoes itself: each cell is XORed twice with the same bit, or left alone twice. -/
theorem blit_blit_display (hn : rows.length ≤ 32) : (blit x0 y0 rows (blit x0 y0 rows d).1).1 = d := by
  refine display_ext fun px py => ?_
  by_cases h : ∃ r c, r < rows.length ∧ c < 8 ∧ px = Fin.ofNat 64 (x0 + c) ∧ py = Fin.ofNat 32 (y0 + r)
  · obtain ⟨r, c, hr, hc, rfl, rfl⟩ := h
    rw [cellAt_blit_same hn hr hc, cellAt_blit_same hn hr hc, Bool.xor_assoc, Bool.xor_self, Bool.xor_false]
  · have hout : ∀ r c, r < rows.length → c < 8 → ¬ (px = Fin.ofNat 64 (x0 + c) ∧ py = Fin.ofNat 32 (y0 + r)) :=
      fun r c hr hc hp => h ⟨r, c, hr, hc, hp⟩
    rw [cellAt_blit_other hout, cellAt_blit_other hout]

/-- The second blit collides where the first one turned a cell on. -/
theorem blit_blit_hit_iff (hn : rows.length ≤ 32) :
    (blit x0 y0 rows (blit x0 y0 rows d).1).2 = true ↔
      ∃ r c, ∃ h : r < rows.length, c < 8 ∧ rows[r].getLsbD (7 - c) = true ∧
        cellAt d (Fin.ofNat 64 (x0 + c)) (Fin.ofNat 32 (y0 + r)) = false := by
  rw [blit_hit_iff hn]
  refine exists_congr fun r => exists_congr fun c => exists_congr fun hr => and_congr_right fun hc =>
    and_congr_right fun hbit => ?_
  rw [cellAt_blit_same hn hr hc, hbit, Bool.xor_true, Bool.not_eq_true']

end

/-! ## The sprite and the state after a draw (R98) -/

/-- DXYN's sprite: the `n` bytes from I on. -/
def State.sprite (s : State) (n : Nat) : List Byte := (List.range n).map fun r => s.readByte (s.base + r)

@[simp] theorem length_sprite (s : State) (n : Nat) : (s.sprite n).length = n := by
  simp [State.sprite]

/-- A well-formed DXYN's sprite is lower than the display. -/
theorem length_sprite_le (s : State) {n : Nat} (hn : n ≤ 15) : (s.sprite n).length ≤ 32 := by
  rw [length_sprite]
  omega

@[simp] theorem getElem_sprite {s : State} {n r : Nat} (h : r < (s.sprite n).length) :
    (s.sprite n)[r] = s.readByte (s.base + r) := by
  simp [State.sprite]

theorem exec_drw_outOfRange (x y : RegIdx) {n : Nat} {s : State} (hn : 0 < n) (h : s.base + n > 0x1000) :
    exec (.drw x y n) s = .next (raise (.addressFault (max s.base 0x1000)) s.pc0 s) := by
  simp [exec, execDrw, readBlock_outOfRange s hn h, Except.map]

/-- No row is read when `n` = 0, so that no I is out of range. -/
theorem exec_drw_inRange (x y : RegIdx) {n : Nat} {s : State} (h : n = 0 ∨ s.base + n ≤ 0x1000) :
    exec (.drw x y n) s = .next (drawRows x y (s.sprite n) s) := by
  have hread : readBlock s.base n s = .ok (s.sprite n) := by
    rcases h with rfl | h
    · rfl
    · exact readBlock_inRange s h
  simp [exec, execDrw, hread, Except.map]

theorem flagByte_eq_zero_or_one (b : Bool) : flagByte b = 0 ∨ flagByte b = 1 := by
  cases b
  · exact .inl rfl
  · exact .inr rfl

theorem flagByte_eq_one_iff {b : Bool} : flagByte b = 1 ↔ b = true := by
  cases b <;> decide

section
variable {x y k : RegIdx} {rows : List Byte} {s : State}

theorem reg_drawRows_other (hk : k ≠ 15) : (drawRows x y rows s).reg k = s.reg k :=
  reg_setReg_other hk

theorem vf_drawRows :
    (drawRows x y rows s).reg 15 = flagByte (blit (originX x s) (originY y s) rows s.disp).2 :=
  reg_setReg_same

/-- With its origin outside VF, the same draw again is the same blit on the drawn display. -/
theorem blit_drawRows (hx : x ≠ 15) (hy : y ≠ 15) :
    blit (originX x (drawRows x y rows s)) (originY y (drawRows x y rows s)) rows (drawRows x y rows s).disp =
      blit (originX x s) (originY y s) rows (blit (originX x s) (originY y s) rows s.disp).1 := by
  rw [originX, originY, reg_drawRows_other hx, reg_drawRows_other hy]
  rfl

end

/-! ## The obligations about DRW -/

/-- Settles O41: the sprite's rows are read or the lowest address outside memory is raised, and the blit's laws say
what the rows do to each cell and to VF. -/
theorem drawXorsTheSprite : Obligations.DrawXorsTheSprite := by
  intro x y n s hn
  have hlen := length_sprite_le s hn
  refine ⟨encodes_wordXYN (by decide) (Nat.lt_succ_of_le hn) (decide_eq_true hn) rfl, exec_drw_outOfRange x y,
    fun hin => ⟨_, exec_drw_inRange x y hin, rfl, fun k => reg_drawRows_other, fun r c hr hc => ?_,
      fun px py hout => ?_, ?_, ?_⟩⟩
  · have hr' : r < (s.sprite n).length := by rwa [length_sprite]
    rw [← State.base, ← getElem_sprite hr']
    exact cellAt_blit_same hlen hr' hc
  · exact cellAt_blit_other (by rwa [length_sprite])
  · rw [vf_drawRows]
    exact flagByte_eq_zero_or_one _
  · rw [vf_drawRows, flagByte_eq_one_iff, blit_hit_iff hlen]
    simp only [length_sprite, getElem_sprite, exists_prop]
    rfl

/-- Settles O42: the second draw reads the same rows and blits them at the same origin, and a blit undoes itself. -/
theorem redrawRestoresTheDisplay : Obligations.RedrawRestoresTheDisplay := by
  intro x y n s hn hx hy hin
  have hlen := length_sprite_le s hn
  refine ⟨_, drawRows x y (s.sprite n) (drawRows x y (s.sprite n) s), exec_drw_inRange x y hin,
    exec_drw_inRange (s := drawRows x y (s.sprite n) s) x y hin, ?_, ?_⟩
  · exact (congrArg Prod.fst (blit_drawRows hx hy)).trans (blit_blit_display hlen)
  · rw [vf_drawRows, flagByte_eq_one_iff, blit_drawRows hx hy, blit_blit_hit_iff hlen]
    simp only [length_sprite, getElem_sprite, exists_prop]
    rfl

end Sys2Proof.Machine
end

section
/-! PROOFS. Keyboard and timer instructions: the key wait that no cycle ends (O45), SKP and SKNP (O43), the wait's two
cases (O44), the moves between a register and a timer (O46). -/

namespace Sys2Proof.Machine

/-! ## The key wait (R102) -/

/-- With no key pressed a cycle at FX0A is the timer tick alone: the wait takes the advance of PC back. -/
theorem step_keyWait {s : State} {x : RegIdx} (hl : s.Live) (hf : fetchWord s.pc s = .ok (wordXKK 0xF x 0x0A))
    (hk : ∀ k : Fin 16, s.keys[k] = false) : step s = .next (timerTick s) := by
  have hdecode := (encodes_wordXKK (i := .ldVxK x) (by decide) rfl rfl).1
  have hnone : lowestPressed (timerTick s).advancePc = none := lowestPressed_none.2 hk
  have hback : (timerTick s).advancePc.setPc ((timerTick s).advancePc.pc - 2) = timerTick s := by
    rw [advancePc_pc, BitVec.add_sub_cancel]
    rfl
  rw [step_of_decoded hl hf hdecode, exec_ldVxK_none hnone, hback]

/-- Settles O45, by induction on the number of cycles: the tick keeps all that the wait rests on. -/
theorem keyWaitNeverHalts : Obligations.KeyWaitNeverHalts := by
  intro n
  induction n with
  | zero => exact fun _ _ hl _ _ => hl.2
  | succ n ih => exact fun x s hl hf hk => ⟨hl.2, timerTick s, step_keyWait hl hf hk, ih x (timerTick s) hl hf hk⟩

/-- The converse of `lowestPressed_some`: the lowest pressed key is the only one that is pressed with none below. -/
theorem lowestPressed_eq_some {s : State} {k : Fin 16} (hk : s.keys[k] = true)
    (hlow : ∀ j : Fin 16, j < k → s.keys[j] = false) : lowestPressed s = some k := by
  cases h : lowestPressed s with
  | none => exact absurd hk (by simp [lowestPressed_none.1 h k])
  | some m =>
    obtain ⟨hm, hmlow⟩ := lowestPressed_some h
    rcases lt_trichotomy m k with hlt | rfl | hgt
    · exact absurd hm (by simp [hlow m hlt])
    · rfl
    · exact absurd hk (by simp [hmlow k hgt])

/-- A key's index as a byte is the index. -/
theorem toNat_keyByte (k : Fin 16) : (BitVec.ofNat 8 k.val).toNat = k.val := by
  rw [BitVec.toNat_ofNat]
  omega

/-- Settles O44, by the two answers of the search for the lowest pressed key. -/
theorem keyWait : Obligations.KeyWait := by
  refine fun x s => ⟨encodes_wordXKK (by decide) rfl rfl, fun hnone => ?_, fun k hk hlow => ?_⟩
  · exact exec_ldVxK_none (lowestPressed_none.2 hnone)
  · refine ⟨_, exec_ldVxK_some (lowestPressed_eq_some hk hlow), rfl, ?_, fun j => reg_setReg_other⟩
    rw [reg_setReg_same, toNat_keyByte]

/-! ## The key skips (R100, R101)

SKP and SKNP are one skip on the operand's key, with the condition `c` on it the identity and the negation. -/

section
variable {x : RegIdx} {s : State} (c : Bool → Bool)

theorem keySkip_outOfRange (h : (s.reg x).toNat > 15) :
    complete s ((keyOperand (s.reg x) s).map fun pressed => s.skipIf (c pressed)) =
      .next (raise (.keyIndexFault (s.reg x)) s.pc0 s) := by
  rcases keyOperand_cases (k := s.reg x) (s := s) rfl with ⟨hlt, -⟩ | ⟨-, hkey⟩
  · omega
  · rw [hkey, Except.map, complete_error]

theorem keySkip_inRange (h : (s.reg x).toNat < 16) :
    complete s ((keyOperand (s.reg x) s).map fun pressed => s.skipIf (c pressed)) =
      .next (s.skipIf (c s.keys[(s.reg x).toNat])) := by
  rcases keyOperand_cases (k := s.reg x) (s := s) rfl with ⟨_, hkey⟩ | ⟨hgt, -⟩
  · rw [hkey, Except.map, complete_ok]
  · omega

end

/-- Settles O43: above 15 the operand names no key and each raises; else each is a skip on that key. -/
theorem keySkips : Obligations.KeySkips := by
  refine fun x s => ⟨encodes_wordXKK (by decide) rfl rfl, encodes_wordXKK (by decide) rfl rfl, fun h => ⟨?_, ?_⟩,
    fun h => ⟨?_, ?_⟩⟩
  · exact keySkip_outOfRange id h
  · exact keySkip_outOfRange not h
  · exact (keySkip_inRange id h).trans (next_skipIf_of_iff s Iff.rfl)
  · exact (keySkip_inRange not h).trans (next_skipIf_of_iff s (Bool.not_eq_true' _).to_iff)

/-! ## The timer moves (R103 to R105) -/

/-- Settles O46: FX07 writes its one result, FX15 and FX18 set their timer field and leave its accumulator. -/
theorem timerRegisterMoves : Obligations.TimerRegisterMoves := fun _ _ =>
  ⟨encodes_wordXKK (by decide) rfl rfl, encodes_wordXKK (by decide) rfl rfl, encodes_wordXKK (by decide) rfl rfl,
    ⟨_, rfl, rfl, reg_setReg_same, fun _ => reg_setReg_other⟩, rfl, rfl⟩

end Sys2Proof.Machine
end

section
/-! PROOFS. Address register and memory transfers: LD B (O48), the block store (O49), the block load (O50), LD I, ADD I
and LD F (O47). -/

namespace Sys2Proof.Machine

/-! ## The block accesses that fault (R53) -/

/-- FX33 raises the fault of its store (R12, R109). -/
theorem exec_ldB_error {s : State} {x : RegIdx} {k : FaultKind}
    (h : writeBlock s.base (bcdDigits (s.reg x)) s = .error k) : exec (.ldB x) s = .next (raise k s.pc0 s) := by
  rw [exec, execLdB, h, complete_error]

/-- FX55 raises the fault of its store (R12, R110). -/
theorem exec_ldMemVx_error {s : State} {x : RegIdx} {k : FaultKind}
    (h : writeBlock s.base (s.regsUpTo x) s = .error k) : exec (.ldMemVx x) s = .next (raise k s.pc0 s) := by
  rw [exec, execLdMemVx, h, Except.map, complete_error]

theorem regsUpTo_ne_nil (s : State) (x : RegIdx) : s.regsUpTo x ≠ [] :=
  List.ne_nil_of_length_eq_add_one (regsUpTo_length s x)

theorem exec_ldVxMem_outOfRange {s : State} {x : RegIdx} (h : s.base + x.val > 0xFFF) :
    exec (.ldVxMem x) s = .next (raise (.addressFault (max s.base 0x1000)) s.pc0 s) := by
  rw [exec, execLdVxMem, readBlock_outOfRange s (Nat.succ_pos _) (by omega), Except.map, complete_error]

/-! ## The block load inside the array (R111) -/

/-- FX65 inside the array reads its bytes and completes (R111). -/
theorem exec_ldVxMem_inRange {s : State} {x : RegIdx} (h : s.base + x.val ≤ 0xFFF) :
    ∃ bs, readBlock s.base (x.val + 1) s = .ok bs ∧ exec (.ldVxMem x) s = .next ((s.loadRegs bs).bumpI x) := by
  have hread := readBlock_inRange s (a := s.base) (n := x.val + 1) (by omega)
  exact ⟨_, hread, by rw [exec, execLdVxMem, hread, Except.map, complete_ok]⟩

/-- The k-th byte of a block that was read is the byte at the k-th address. -/
theorem getElem?_of_readBlock {s : State} {a n k : Nat} {bs : List Byte} (h : readBlock a n s = .ok bs) (hk : k < n) :
    bs[k]? = some (s.readByte (a + k)) := by
  have hin : a + n ≤ 0x1000 := by
    by_contra hout
    simp [readBlock_outOfRange s (Nat.zero_lt_of_lt hk) (Nat.lt_of_not_le hout)] at h
  rw [readBlock_inRange s hin] at h
  cases h
  simp [hk]

section
variable {s : State} {a n : Nat} {bs : List Byte} {k : RegIdx} (h : readBlock a n s = .ok bs)
include h

/-- A register the block reaches is loaded with its byte. -/
theorem reg_loadRegs_inside (hk : k.val < n) : (s.loadRegs bs).reg k = s.readByte (a + k.val) := by
  rw [reg_loadRegs, getElem?_of_readBlock h hk, Option.getD_some]

/-- A register the block does not reach keeps its value. -/
theorem reg_loadRegs_outside (hk : n ≤ k.val) : (s.loadRegs bs).reg k = s.reg k := by
  rw [reg_loadRegs, List.getElem?_eq_none ((readBlock_length h).trans_le hk), Option.getD_none]

end

/-! ## The memory-increment quirk (R110, R111)

`u` is the state after the transfer, with the address register and the configuration of `s`. -/

section
variable {s u : State} (x : RegIdx) (hi : u.i = s.i) (hcfg : u.cfg = s.cfg)
include hi hcfg

theorem bumpI_i_off (hq : s.cfg.quirkMemIncrementI = false) : (u.bumpI x).i = s.i := by
  rw [bumpI_i, hcfg, hq, hi]
  rfl

theorem toNat_bumpI_i_on (hq : s.cfg.quirkMemIncrementI = true) :
    (u.bumpI x).i.toNat = (s.i.toNat + x.val + 1) % 65536 := by
  rw [bumpI_i, hcfg, if_pos hq, State.base, hi, BitVec.toNat_ofNat]

end

/-! ## LD B (R109) -/

/-- The bytes a completed FX33 leaves at I, I+1, I+2: the decimal digits, the hundreds first. -/
theorem digits_of_writeBlock {s t : State} {a : Nat} {v : Byte} (h : writeBlock a (bcdDigits v) s = .ok t)
    (hwf : Memory.wf s.cfg s.mem) :
    (t.readByte a).toNat = v.toNat / 100 ∧ (t.readByte (a + 1)).toNat = v.toNat / 10 % 10 ∧
      (t.readByte (a + 2)).toNat = v.toNat % 10 := by
  have digit : ∀ k, k < 3 → (t.readByte (a + k)).toNat = v.toNat / 10 ^ (2 - k) % 10 := fun k hk =>
    (congrArg BitVec.toNat (writeBlock_same h hwf hk)).trans (toNat_getElem_bcdDigits v hk)
  have hhundreds : v.toNat / 100 < 10 := by omega
  refine ⟨?_, digit 1 (by decide), ?_⟩
  · exact (digit 0 (by decide)).trans (Nat.mod_eq_of_lt hhundreds)
  · simpa using digit 2 (by decide)

/-- Settles O48: a store of the three digits, which raises at the block's first address or at the lowest one outside
memory, and else changes its own block alone. -/
theorem decimalDigitsAreStored : Obligations.DecimalDigitsAreStored := by
  refine fun x s hwf => ⟨encodes_wordXKK (by decide) rfl rfl, fun hres => ?_, fun hout => ?_, fun hlo hhi => ?_⟩
  · exact exec_ldB_error (writeBlock_reserved s hres (List.cons_ne_nil _ _))
  · refine exec_ldB_error (writeBlock_outOfRange s (by omega) (List.cons_ne_nil _ _) ?_)
    rw [bcdDigits_length]
    omega
  · obtain ⟨t, ht, hexec⟩ := exec_ldB_inRange s x hlo hhi
    obtain ⟨hhundreds, htens, hunits⟩ := digits_of_writeBlock ht hwf
    exact ⟨t, hexec, (writeBlock_ok ht).1, hhundreds, htens, hunits, fun a => writeBlock_other ht⟩

/-! ## The block store (R110) -/

/-- Settles O49: a store of V0 to VX, with the faults of any store, and then the quirk on I. -/
theorem registersAreStored : Obligations.RegistersAreStored := by
  refine fun x s hwf => ⟨encodes_wordXKK (by decide) rfl rfl, fun hres => ?_, fun hlo hout => ?_, fun hlo hhi => ?_⟩
  · exact exec_ldMemVx_error (writeBlock_reserved s hres (regsUpTo_ne_nil s x))
  · refine exec_ldMemVx_error (writeBlock_outOfRange s hlo (regsUpTo_ne_nil s x) ?_)
    rw [regsUpTo_length]
    omega
  · obtain ⟨u, hu, hexec⟩ := exec_ldMemVx_inRange s hlo hhi
    have hframe := (writeBlock_ok hu).1
    have hi : u.i = s.i := (congrArg State.i hframe :)
    have hcfg : u.cfg = s.cfg := (congrArg State.cfg hframe :)
    refine ⟨_, hexec, Effect.frame (i := .ldMemVx x) ⟨u, hu, rfl⟩, bumpI_i_off x hi hcfg,
      toNat_bumpI_i_on x hi hcfg, fun k hk => ?_, fun a ha => ?_⟩
    · have hlen : k.val < (s.regsUpTo x).length := by rw [regsUpTo_length]; omega
      rw [readByte_bumpI, writeBlock_same hu hwf hlen, getElem_regsUpTo, Fin.ofNat_val_eq_self]
    · rw [readByte_bumpI, writeBlock_other hu (by rw [regsUpTo_length]; omega)]

/-! ## The block load (R111) -/

/-- Settles O50: a read of X + 1 bytes, which raises the lowest address outside memory or loads V0 to VX, and then the
quirk on I. -/
theorem registersAreLoaded : Obligations.RegistersAreLoaded := by
  refine fun x s => ⟨encodes_wordXKK (by decide) rfl rfl, exec_ldVxMem_outOfRange, fun hhi => ?_⟩
  obtain ⟨bs, hbs, hexec⟩ := exec_ldVxMem_inRange hhi
  refine ⟨_, hexec, Effect.frame (i := .ldVxMem x) ⟨bs, hbs, rfl⟩,
    bumpI_i_off x (loadRegs_i s bs) (loadRegs_cfg s bs), toNat_bumpI_i_on x (loadRegs_i s bs) (loadRegs_cfg s bs),
    fun k hk => ?_, fun k hk => ?_⟩
  · rw [reg_bumpI, reg_loadRegs_inside hbs (Nat.lt_succ_of_le hk)]
  · rw [reg_bumpI, reg_loadRegs_outside hbs hk]

/-! ## LD I, ADD I and LD F (R106 to R108) -/

theorem exec_ldI (nnn : Addr12) (s : State) : exec (.ldI nnn) s = .next { s with i := BitVec.ofNat 16 nnn.toNat } := by
  rw [← addrOperand_eq_ofNat]
  rfl

/-- No glyph address wraps: 255 times 5 is 0x4FB (R108). -/
theorem toNat_glyphAddr (v : Byte) : (glyphAddr v).toNat = v.toNat * 5 := by
  have hlt : v.toNat * 5 < 65536 := by omega
  rw [glyphAddr, BitVec.toNat_mul, BitVec.toNat_setWidth_of_le (by decide)]
  exact Nat.mod_eq_of_lt hlt

/-- Settles O47: each sets I alone, to the operand, to the 16-bit sum or to the glyph's address. -/
theorem addressRegisterWrites : Obligations.AddressRegisterWrites := by
  refine fun nnn x s => ⟨encodes_wordNNN (by decide) rfl rfl, encodes_wordXKK (by decide) rfl rfl,
    encodes_wordXKK (by decide) rfl rfl, exec_ldI nnn s, ⟨_, rfl, rfl, ?_⟩, ⟨_, rfl, rfl, toNat_glyphAddr _⟩⟩
  rw [setI_i, BitVec.toNat_add, BitVec.toNat_setWidth_of_le (by decide)]

end Sys2Proof.Machine
end

section
/-! PROOFS. Faults: each instruction raises the fault R112's table gives it and no other (O10), and what a fault leaves
in place (O9). -/

namespace Sys2Proof.Machine

/-! ## R112's table for the block accesses (R53) -/

/-- A block read has a fault exactly when it leaves the array: the lowest address outside it. -/
theorem readFaultOf_cases (a n : Nat) :
    (0 < n ∧ 0x1000 < a + n ∧ readFaultOf a n = some (.addressFault (max a 0x1000))) ∨
      ((n = 0 ∨ a + n ≤ 0x1000) ∧ readFaultOf a n = none) := by
  unfold readFaultOf
  split_ifs with hin ha
  · exact .inr ⟨hin, rfl⟩
  · exact .inl ⟨by omega, by omega, by rw [Nat.max_eq_right (by omega)]⟩
  · exact .inl ⟨by omega, by omega, by rw [Nat.max_eq_left (by omega)]⟩

/-- A store has the fault of the reserved region, else that of a read of its block. -/
theorem storeFaultOf_cases (a : Nat) {n : Nat} (hn : 0 < n) :
    (a < 0x200 ∧ storeFaultOf a n = some (.reservedWriteFault a)) ∨
      (0x200 ≤ a ∧ 0x1000 < a + n ∧ storeFaultOf a n = some (.addressFault (max a 0x1000))) ∨
      (0x200 ≤ a ∧ a + n ≤ 0x1000 ∧ storeFaultOf a n = none) := by
  unfold storeFaultOf
  split_ifs with hres
  · exact .inl ⟨hres, rfl⟩
  · rcases readFaultOf_cases a n with ⟨-, hout, hf⟩ | ⟨hin, hf⟩
    · exact .inr (.inl ⟨by omega, hout, hf⟩)
    · exact .inr (.inr ⟨by omega, by omega, hf⟩)

/-! ## The table and the meanings -/

/-- `exec` does what R112's table says of `i`: it raises the table's fault, or the table has none and the instruction
stays inside its frame. -/
def MeetsFaultTable (i : Instr) (s : State) : Prop :=
  (∃ k, faultOf i s = some k ∧ exec i s = .next (raise k s.pc0 s)) ∨
    (faultOf i s = none ∧ ∃ t, exec i s = .next t ∧ Frame i s t)

theorem ldB_meetsFaultTable (x : RegIdx) (s : State) : MeetsFaultTable (.ldB x) s := by
  rcases storeFaultOf_cases s.base (n := 3) (by decide) with ⟨hres, hf⟩ | ⟨hlo, hout, hf⟩ | ⟨hlo, hin, hf⟩
  · exact .inl ⟨_, hf, exec_ldB_error (writeBlock_reserved s hres (List.cons_ne_nil _ _))⟩
  · exact .inl ⟨_, hf, exec_ldB_error (writeBlock_outOfRange s hlo (List.cons_ne_nil _ _) hout)⟩
  · obtain ⟨u, hu, hexec⟩ := exec_ldB_inRange s x hlo (by omega)
    exact .inr ⟨hf, u, hexec, Effect.frame (i := .ldB x) hu⟩

theorem ldMemVx_meetsFaultTable (x : RegIdx) (s : State) : MeetsFaultTable (.ldMemVx x) s := by
  have hne := regsUpTo_ne_nil s x
  rcases storeFaultOf_cases s.base (Nat.succ_pos x.val) with ⟨hres, hf⟩ | ⟨hlo, hout, hf⟩ | ⟨hlo, hin, hf⟩
  · exact .inl ⟨_, hf, exec_ldMemVx_error (writeBlock_reserved s hres hne)⟩
  · exact .inl ⟨_, hf, exec_ldMemVx_error (writeBlock_outOfRange s hlo hne (by rwa [regsUpTo_length]))⟩
  · obtain ⟨u, hu, hexec⟩ := exec_ldMemVx_inRange s (x := x) hlo (by omega)
    exact .inr ⟨hf, _, hexec, Effect.frame (i := .ldMemVx x) ⟨u, hu, rfl⟩⟩

theorem ldVxMem_meetsFaultTable (x : RegIdx) (s : State) : MeetsFaultTable (.ldVxMem x) s := by
  rcases readFaultOf_cases s.base (x.val + 1) with ⟨-, hout, hf⟩ | ⟨hin, hf⟩
  · exact .inl ⟨_, hf, exec_ldVxMem_outOfRange (by omega)⟩
  · obtain ⟨bs, hbs, hexec⟩ := exec_ldVxMem_inRange (s := s) (x := x) (by omega)
    exact .inr ⟨hf, _, hexec, Effect.frame (i := .ldVxMem x) ⟨bs, hbs, rfl⟩⟩

theorem drw_meetsFaultTable (x y : RegIdx) (n : Nat) (s : State) : MeetsFaultTable (.drw x y n) s := by
  rcases readFaultOf_cases s.base n with ⟨hn, hout, hf⟩ | ⟨hin, hf⟩
  · exact .inl ⟨_, hf, exec_drw_outOfRange x y hn hout⟩
  · exact .inr ⟨hf, _, exec_drw_inRange x y hin, rfl⟩

/-- SKP and SKNP, whose fault is that of the key operand. -/
theorem keySkip_meetsFaultTable {i : Instr} {x : RegIdx} {s : State} (c : Bool → Bool)
    (hi : exec i s = complete s ((keyOperand (s.reg x) s).map fun pressed => s.skipIf (c pressed)))
    (hf : faultOf i s = if (s.reg x).toNat > 15 then some (.keyIndexFault (s.reg x)) else none)
    (hframe : ∀ b, Frame i s (s.skipIf b)) : MeetsFaultTable i s := by
  by_cases hk : (s.reg x).toNat > 15
  · exact .inl ⟨_, hf.trans (if_pos hk), hi.trans (keySkip_outOfRange c hk)⟩
  · exact .inr ⟨hf.trans (if_neg hk), _, hi.trans (keySkip_inRange c (by omega)), hframe _⟩

theorem exec_meetsFaultTable (i : Instr) (s : State) : MeetsFaultTable i s := by
  cases i
  case ret =>
    by_cases hsp : s.sp = 0
    · exact .inl ⟨_, if_pos hsp, exec_ret_empty (List.length_eq_zero_iff.1 hsp)⟩
    · obtain ⟨v, t, -, hexec, ht⟩ := exec_ret_nonempty (Nat.pos_of_ne_zero hsp)
      exact .inr ⟨if_neg hsp, t, hexec, by rw [ht]; rfl⟩
  case call nnn =>
    by_cases hsp : s.sp = stackDepth
    · exact .inl ⟨_, if_pos hsp, exec_call_full nnn hsp⟩
    · exact .inr ⟨if_neg hsp, _, exec_call_room nnn hsp, rfl⟩
  case drw x y n => exact drw_meetsFaultTable x y n s
  case skp x => exact keySkip_meetsFaultTable id rfl rfl (skipIf_frame s)
  case sknp x => exact keySkip_meetsFaultTable not rfl rfl (skipIf_frame s)
  case ldVxK x =>
    cases hkey : lowestPressed s with
    | none => exact .inr ⟨rfl, _, exec_ldVxK_none hkey, rfl⟩
    | some k => exact .inr ⟨rfl, _, exec_ldVxK_some hkey, rfl⟩
  case ldB x => exact ldB_meetsFaultTable x s
  case ldMemVx x => exact ldMemVx_meetsFaultTable x s
  case ldVxMem x => exact ldVxMem_meetsFaultTable x s
  all_goals exact .inr ⟨rfl, _, rfl, Effect.frame rfl⟩

/-- No frame holds FAULT: an instruction writes it by a raise only (R113). -/
theorem Frame.fault {i : Instr} {s t : State} (hf : Frame i s t) : t.fault = s.fault := by
  cases i <;> exact (congrArg State.fault hf :)

/-- Settles O10: the codes are the table's, an instruction meets the table, and the two faults of the cycle itself are
the raises of the step's equations. -/
theorem faultsAreThoseOfTheTable : Obligations.FaultsAreThoseOfTheTable := by
  refine ⟨fun _ _ _ => ⟨rfl, rfl, rfl, rfl, rfl, rfl, rfl, rfl, rfl, rfl, rfl, rfl, rfl, rfl⟩, fun i s hs => ?_,
    fun s hl hpc => ⟨_, step_of_fetchFault hl hpc, rfl⟩,
    fun s op hl hf hd => ⟨_, step_of_unknownOpcode hl hf hd, rfl⟩⟩
  rcases exec_meetsFaultTable i s with ⟨k, hk, hexec⟩ | ⟨hnone, t, hexec, hframe⟩
  · exact ⟨_, hexec, by rw [hk]; rfl⟩
  · exact ⟨t, hexec, by rw [hnone, hframe.fault, hs]; rfl⟩

/-! ## What a fault leaves in place (R71, R115) -/

/-- A fetch fault is the cycle's, never an instruction's (R112). -/
theorem faultOf_ne_fetchFault (i : Instr) (s : State) (a : Word) : faultOf i s ≠ some (.fetchFault a) := by
  have hread : ∀ b n, readFaultOf b n ≠ some (.fetchFault a) := fun b n => by
    rcases readFaultOf_cases b n with ⟨-, -, hf⟩ | ⟨-, hf⟩ <;> simp [hf]
  have hstore : ∀ b n, storeFaultOf b n ≠ some (.fetchFault a) := fun b n => by
    unfold storeFaultOf
    split
    · simp
    · exact hread b n
  cases i <;> simp [faultOf, hread, hstore]

/-- An instruction that latches a fault changes nothing else, and the fault is no fetch fault. -/
theorem exec_fault_precise {i : Instr} {s t : State} {r : FaultRecord} (h : exec i s = .next t) (hs : s.fault = none)
    (ht : t.fault = some r) : t = { s with fault := some r } ∧ ∀ a, r.kind ≠ .fetchFault a := by
  rcases exec_meetsFaultTable i s with ⟨k, hk, hexec⟩ | ⟨-, u, hexec, hframe⟩
  · cases h.symm.trans hexec
    cases ht
    exact ⟨rfl, fun a ha => faultOf_ne_fetchFault i s a (hk.trans (congrArg some ha))⟩
  · cases h.symm.trans hexec
    simp [hframe.fault, hs] at ht

/-- Settles O9: the step's own two raises are written out in its equations, and an instruction that raises leaves the
state of the execute stage, with PC advanced, as it was. -/
theorem faultsArePrecise : Obligations.FaultsArePrecise := by
  intro s t r hl h ht
  rcases step_cases h with ⟨hn, -⟩ | ⟨-, -, hr⟩ | ⟨op, -, -, -, ⟨-, hr⟩ | ⟨i, -, hr⟩⟩
  · exact absurd hl hn
  · cases hr; cases ht
    exact ⟨fun _ => rfl, fun hne => absurd rfl (hne s.pc)⟩
  · cases hr; cases ht
    refine ⟨?_, fun _ => rfl⟩
    rintro ⟨_, ⟨⟩⟩
  · obtain ⟨hstate, hkind⟩ := exec_fault_precise hr.symm hl.2 ht
    exact ⟨fun ⟨a, hk⟩ => absurd hk (hkind a), fun _ => hstate⟩

end Sys2Proof.Machine
end

section
/-! PROOFS. The timers: who moves an accumulator (O19), one tick (O17), the law of n ticks (O18). -/

namespace Sys2Proof.Machine

/-! ## Who moves an accumulator (R124) -/

/-- A live step leaves the accumulators as its tick does. -/
theorem step_accumulators {s t : State} (hl : s.Live) (h : step s = .next t) :
    t.accD = (timerTick s).accD ∧ t.accS = (timerTick s).accS := by
  rcases step_cases h with ⟨hn, -⟩ | ⟨-, -, hr⟩ | ⟨op, -, -, -, ⟨-, hr⟩ | ⟨i, -, hr⟩⟩
  · exact absurd hl hn
  · cases hr; exact ⟨rfl, rfl⟩
  · cases hr; exact ⟨rfl, rfl⟩
  · exact (exec_accumulators hr.symm :)

theorem load_ok_eq_loaded {input : LoadInput} {s : State} (h : (load input s).1 = .ok) :
    ∃ rom, (load input s).2 = loaded rom s := by
  rcases load_cases input s with ⟨hne, -⟩ | ⟨rom, -, -, hok⟩
  · exact absurd h hne
  · exact ⟨rom, congrArg Prod.snd hok⟩

/-- Settles O19: the accumulators are in the frame of no instruction and of neither port, and a load that succeeds
starts from the constructed state. -/
theorem accumulatorsMoveOnlyByTickAndLoad : Obligations.AccumulatorsMoveOnlyByTickAndLoad := by
  refine ⟨fun i s t => exec_accumulators, fun s t => step_accumulators, fun s t hn h => ?_, fun k p s => ?_,
    fun l s => ⟨rfl, rfl⟩, fun input s hne => ?_, fun input s hok => ?_⟩
  · rw [step_of_not_live hn] at h
    cases h
    exact ⟨rfl, rfl⟩
  · rw [updateKey_frame]
    exact ⟨rfl, rfl⟩
  · rw [load_failed hne]
    exact ⟨rfl, rfl⟩
  · obtain ⟨rom, hload⟩ := load_ok_eq_loaded hok
    rw [hload]
    exact ⟨rfl, rfl⟩

/-! ## One tick (R123) -/

/-- `tickTimer_cases` as the two implications of R123. -/
theorem tickTimer_rule (cfg : Config) (acc : Nat) (timer : Byte) :
    (acc + cfg.cycleUnit > cfg.tickPeriod → (tickTimer cfg acc timer).1 = acc + cfg.cycleUnit - cfg.tickPeriod ∧
      (tickTimer cfg acc timer).2.toNat = timer.toNat - 1) ∧
    (acc + cfg.cycleUnit ≤ cfg.tickPeriod → (tickTimer cfg acc timer).1 = acc + cfg.cycleUnit ∧
      (tickTimer cfg acc timer).2 = timer) := by
  rcases tickTimer_cases cfg acc timer with ⟨hgt, htick⟩ | ⟨hle, htick⟩
  · exact ⟨fun _ => htick, fun hle => absurd hgt (Nat.not_lt.2 hle)⟩
  · exact ⟨fun hgt => absurd hgt (Nat.not_lt.2 hle), fun _ => htick⟩

/-- Settles O17: the rule for each timer, and the accumulators of a live step. -/
theorem timerTickRule : Obligations.TimerTickRule := by
  intro s
  obtain ⟨exceedsD, withinD⟩ := tickTimer_rule s.cfg s.accD s.dt
  obtain ⟨exceedsS, withinS⟩ := tickTimer_rule s.cfg s.accS s.st
  refine ⟨_, rfl, rfl, exceedsD, withinD, exceedsS, withinS, fun hl => ?_, step_of_not_live⟩
  obtain ⟨u, hu⟩ := everyStepHasANextState s
  exact ⟨u, hu, step_accumulators hl hu⟩

/-! ## The number of decrements (R126) -/

section
variable {cfg : Config} (hv : cfg.Valid)
include hv

/-- `d(n)` is the number of whole periods strictly below `n·CYCLE_UNIT`, which "exceeds" counts (R123). -/
theorem decrementCount_eq_div {n : Nat} (hn : 0 < n) :
    decrementCount cfg n = (n * cfg.cycleUnit - 1) / cfg.tickPeriod := by
  obtain ⟨hunit, hperiod⟩ := hv
  have hpos : 0 < n * cfg.cycleUnit := Nat.mul_pos hn hunit
  have hsplit : n * cfg.cycleUnit + cfg.tickPeriod - 1 = n * cfg.cycleUnit - 1 + cfg.tickPeriod := by omega
  rw [decrementCount, if_neg (Nat.ne_of_gt hn), hsplit, Nat.add_div_right _ (by omega), Nat.succ_sub_one]

/-- Which number `d(n)` is: its periods are below `n·CYCLE_UNIT`, and one more reaches it. -/
theorem decrementCount_eq_iff {n d : Nat} (hn : 0 < n) : decrementCount cfg n = d ↔
    d * cfg.tickPeriod < n * cfg.cycleUnit ∧ n * cfg.cycleUnit ≤ d * cfg.tickPeriod + cfg.tickPeriod := by
  have hunit : 0 < n * cfg.cycleUnit := Nat.mul_pos hn hv.1
  have hperiod : 0 < cfg.tickPeriod := Nat.lt_of_lt_of_le hv.1 hv.2
  rw [decrementCount_eq_div hv hn, Nat.div_eq_iff hperiod]
  omega

theorem mul_cycleUnit_le (n : Nat) :
    n * cfg.cycleUnit ≤ decrementCount cfg n * cfg.tickPeriod + cfg.tickPeriod := by
  rcases Nat.eq_zero_or_pos n with rfl | hn
  · rw [Nat.zero_mul]
    exact Nat.zero_le _
  · exact ((decrementCount_eq_iff hv hn).1 rfl).2

theorem decrementCount_succ_eq {n d : Nat} (hlo : d * cfg.tickPeriod < n * cfg.cycleUnit + cfg.cycleUnit)
    (hhi : n * cfg.cycleUnit + cfg.cycleUnit ≤ d * cfg.tickPeriod + cfg.tickPeriod) :
    decrementCount cfg (n + 1) = d := by
  rw [decrementCount_eq_iff hv (Nat.succ_pos n), Nat.add_one_mul]
  exact ⟨hlo, hhi⟩

/-- One tick more, where the accumulator holds what `n` ticks less `d(n)` periods leave: the tick after it obeys the
same law for `n + 1`, and the timer loses what `d` gains, which is 1 when the sum exceeds the period and else 0. -/
theorem tickTimer_law {acc n : Nat} (timer : Byte)
    (hacc : acc + decrementCount cfg n * cfg.tickPeriod = n * cfg.cycleUnit) :
    (tickTimer cfg acc timer).1 + decrementCount cfg (n + 1) * cfg.tickPeriod = (n + 1) * cfg.cycleUnit ∧
      decrementCount cfg n ≤ decrementCount cfg (n + 1) ∧
      (tickTimer cfg acc timer).2.toNat =
        timer.toNat - (decrementCount cfg (n + 1) - decrementCount cfg n) := by
  have ⟨hunit, hunitLe⟩ := hv
  have hle := mul_cycleUnit_le hv n
  rw [Nat.add_one_mul]
  rcases tickTimer_cases cfg acc timer with ⟨hgt, htick, htimer⟩ | ⟨hwithin, htick, htimer⟩
  · have hsucc := Nat.add_one_mul (decrementCount cfg n) cfg.tickPeriod
    have hd : decrementCount cfg (n + 1) = decrementCount cfg n + 1 :=
      decrementCount_succ_eq hv (by omega) (by omega)
    rw [htick, htimer, hd]
    omega
  · have hd : decrementCount cfg (n + 1) = decrementCount cfg n := decrementCount_succ_eq hv (by omega) (by omega)
    rw [htick, htimer, hd]
    omega

end

/-! ## `n` ticks (R126) -/

/-- One timer's accumulator and counter after `k` ticks. -/
def tickTimes (cfg : Config) : Nat → Nat × Byte → Nat × Byte
  | 0, q => q
  | k + 1, q => tickTimer cfg (tickTimes cfg k q).1 (tickTimes cfg k q).2

/-- `k` ticks of the machine are `k` ticks of each timer. -/
theorem timerTick_iterate (k : Nat) (s : State) : timerTick^[k] s =
    { s with
      accD := (tickTimes s.cfg k (s.accD, s.dt)).1, dt := (tickTimes s.cfg k (s.accD, s.dt)).2,
      accS := (tickTimes s.cfg k (s.accS, s.st)).1, st := (tickTimes s.cfg k (s.accS, s.st)).2 } := by
  induction k with
  | zero => rfl
  | succ k ih => rw [Function.iterate_succ_apply', ih]; rfl

/-- The timer law: `k` ticks after the `m`-th, the accumulator obeys the law of `m + k` ticks, and the timer has lost
what `d` has gained. -/
theorem tickTimes_law {cfg : Config} (hv : cfg.Valid) {acc m : Nat} (timer : Byte)
    (hacc : acc + decrementCount cfg m * cfg.tickPeriod = m * cfg.cycleUnit) (k : Nat) :
    (tickTimes cfg k (acc, timer)).1 + decrementCount cfg (m + k) * cfg.tickPeriod = (m + k) * cfg.cycleUnit ∧
      decrementCount cfg m ≤ decrementCount cfg (m + k) ∧
      (tickTimes cfg k (acc, timer)).2.toNat =
        timer.toNat - (decrementCount cfg (m + k) - decrementCount cfg m) := by
  induction k with
  | zero => exact ⟨hacc, le_rfl, by simp [tickTimes]⟩
  | succ k ih =>
    obtain ⟨ihAcc, ihLe, ihTimer⟩ := ih
    obtain ⟨hacc', hle, htimer⟩ := tickTimer_law hv (tickTimes cfg k (acc, timer)).2 ihAcc
    rw [← Nat.add_assoc]
    refine ⟨hacc', ihLe.trans hle, htimer.trans ?_⟩
    rw [ihTimer]
    omega

/-- Settles O18: both timers obey the law of one timer, from accumulators at 0 and, after `m` ticks, from the value the
timer is set to. -/
theorem timerLaw : Obligations.TimerLaw := by
  intro s hv haccD haccS
  have law (n : Nat) :
      (timerTick^[n] s).accD + decrementCount s.cfg n * s.cfg.tickPeriod = n * s.cfg.cycleUnit ∧
      (timerTick^[n] s).accS + decrementCount s.cfg n * s.cfg.tickPeriod = n * s.cfg.cycleUnit := by
    have start (timer : Byte) := (tickTimes_law hv (acc := 0) (m := 0) timer (by simp [decrementCount]) n).1
    rw [timerTick_iterate, haccD, haccS]
    simp only [Nat.zero_add] at start
    exact ⟨start _, start _⟩
  refine ⟨fun n _ => law n, fun m k v => ?_⟩
  obtain ⟨lawD, lawS⟩ := law m
  have hcfg : (timerTick^[m] s).cfg = s.cfg := by rw [timerTick_iterate]
  rw [timerTick_iterate k, timerTick_iterate k, setDt_cfg, setSt_cfg, hcfg]
  exact ⟨(tickTimes_law hv v lawD k).2.2, (tickTimes_law hv v lawS k).2.2⟩

end Sys2Proof.Machine
end

section
/-! PROOFS. The host's ports: they keep the invariant (O16); the key port (O58), the step port (O57), the beep (O20),
the ports of a halted core (O11), and the render port (O59). -/

namespace Sys2Proof.Machine

/-! ## The invariant (R127, R132, R139) -/

/-- A loaded core is a constructed one whose memory holds a ROM that fits. -/
theorem loaded_inv {rom : List Byte} {s : State} (hv : s.cfg.Valid) (hlen : rom.length ≤ romMax) :
    (loaded rom s).Inv where
  config := hv
  memory := Memory.ofBytes_wf (by simp only [progBase, memSize, romMax] at *; omega)
  font := fun _ hc => (Memory.mem_ofBytes hc).1
  depth := (constructed_inv hv).depth
  entries := (constructed_inv hv).entries
  pc := (constructed_inv hv).pc
  accEq := rfl
  accLe := Nat.zero_le _
  faultRunnable := fun _ => rfl

theorem load_keeps_inv {s : State} (input : LoadInput) (hi : s.Inv) : (load input s).2.Inv := by
  rcases load_cases input s with ⟨-, hs⟩ | ⟨rom, -, hlen, hok⟩
  · rw [hs]
    exact hi
  · rw [hok]
    exact loaded_inv hi.config hlen

/-- Settles O16: a load leaves the state or installs a loaded one, and the other two ports write no field that the
invariant speaks of. -/
theorem portsKeepTheInvariant : Obligations.PortsKeepTheInvariant := by
  refine fun s hi => ⟨fun input => load_keeps_inv input hi, fun k p => ?_, fun l => { hi with }⟩
  rw [updateKey_frame]
  exact { hi with }

/-! ## The key port (R127) -/

theorem updateKey_refused {k : Nat} (h : 16 ≤ k) (p : Bool) (s : State) : updateKey k p s = (.invalid, s) :=
  dif_neg (Nat.not_lt.2 h)

theorem updateKey_accepted {k : Nat} (h : k < 16) (p : Bool) (s : State) :
    updateKey k p s = (.ok, { s with keys := s.keys.set k p }) :=
  dif_pos h

/-- Settles O58, by the port's two cases. -/
theorem keyboardPort : Obligations.KeyboardPort := by
  refine fun k p s => ⟨fun h => updateKey_refused h p s, fun h => ⟨_, updateKey_accepted h p s, rfl, fun j => ?_⟩⟩
  simp [Vector.getElem_set, eq_comm]

/-! ## The step port (R130) -/

theorem executeCycle_of_step {s t : State} (h : step s = .next t) : executeCycle s = .next (stepResult s t, t) := by
  rw [executeCycle, h]

theorem stepResult_notRunnable {s t : State} (h : s.runnable = false) : stepResult s t = .notRunnable := by
  rw [stepResult, h]
  rfl

theorem stepResult_halted {s t : State} {r : FaultRecord} (hrun : s.runnable = true) (ht : t.fault = some r) :
    stepResult s t = .halted r := by
  rw [stepResult, if_pos hrun, ht]

theorem stepResult_ok {s t : State} (hrun : s.runnable = true) (ht : t.fault = none) : stepResult s t = .ok := by
  rw [stepResult, if_pos hrun, ht]

theorem step_of_halted {s : State} (h : s.fault ≠ none) : step s = .next s :=
  step_of_not_live fun hl => h hl.2

/-- Settles O57: the port's answer is `stepResult` of the step, which leaves a core that is not live alone. -/
theorem stepPortReports : Obligations.StepPortReports := by
  refine fun s => ⟨fun hrun => ?_, fun r hrun hf => ?_, fun hl => ?_⟩
  · rw [executeCycle_of_step (step_of_not_runnable hrun), stepResult_notRunnable hrun]
  · rw [executeCycle_of_step (step_of_halted (by simp [hf])), stepResult_halted hrun hf]
  · obtain ⟨t, ht⟩ := everyStepHasANextState s
    exact ⟨t, ht, fun hnone => by rw [executeCycle_of_step ht, stepResult_ok hl.1 hnone],
      fun r hr => by rw [executeCycle_of_step ht, stepResult_halted hl.1 hr]⟩

/-! ## The beep, and the ports of a halted core (R114, R125) -/

/-- Settles O20: the beep is the test on ST, and a halted core's step changes nothing. -/
theorem beepFollowsTheSoundTimer : Obligations.BeepFollowsTheSoundTimer := fun s =>
  ⟨bne_iff_ne, fun hf => ⟨s, step_of_halted hf, rfl⟩⟩

/-- Settles O11: only a load writes FAULT, and neither the render port nor the beep reads it. -/
theorem haltedCoreStaysHalted : Obligations.HaltedCoreStaysHalted := by
  refine fun s hf => ⟨step_of_halted hf, fun input => ⟨fun hok => ?_, load_failed⟩, fun k p => ⟨?_, fun h => ?_⟩,
    fun l => ⟨rfl, rfl⟩, fun _ => rfl, rfl⟩
  · obtain ⟨rom, hload⟩ := load_ok_eq_loaded hok
    rw [hload]
    rfl
  · rw [updateKey_frame]
  · simp [updateKey_accepted h]

/-! ## The render port (R128) -/

/-- Byte `j` of the cell (x, y) is byte `j` of the cell's colour, at its place in row-major order. -/
theorem getElem?_rendered (s : State) (x : Fin 64) (y : Fin 32) {j : Nat} (hj : j < 4) :
    ((displaySnapshot s).flatMap (cellBytes s.cfg))[4 * (64 * y.val + x.val) + j]? =
      (cellBytes s.cfg (cellAt s.disp x y))[j]? := by
  rw [getElem?_flatMap_block (cellBytes_length s.cfg) _ hj, displaySnapshot_cell, Option.bind_some]

/-- Settles O59: the port writes four bytes for each of the 2048 cells, in the snapshot's order. -/
theorem renderPort : Obligations.RenderPort := by
  refine fun buffer s => ⟨fun h => if_neg h, fun h => ⟨_, if_pos h, ?_, ?_⟩⟩
  · rw [length_flatMap_block (cellBytes_length s.cfg), displaySnapshot_length]
  · rintro x y c rfl
    have hbyte := fun j (hj : j < 4) => getElem?_rendered s x y hj
    have hcell : cellBytes s.cfg (cellAt s.disp x y) =
        Rgba.bytes (if cellAt s.disp x y = true then s.cfg.onColor else s.cfg.offColor) := (apply_ite _ _ _ _).symm
    rw [hcell] at hbyte
    exact ⟨hbyte 0 (by decide), hbyte 1 (by decide), hbyte 2 (by decide), hbyte 3 (by decide)⟩

end Sys2Proof.Machine
end

section
/-! PROOFS. The load port: its answers (O53), a load after a load (O56), and the cycle after an empty ROM (O55). -/

namespace Sys2Proof.Machine

/-! ## The answers (R139 to R142) -/

theorem load_tooLarge {rom : List Byte} (s : State) (h : romMax < rom.length) :
    load (.bytes rom) s = (.romTooLarge, s) :=
  if_pos h

theorem load_fits {rom : List Byte} (s : State) (h : rom.length ≤ romMax) : load (.bytes rom) s = (.ok, loaded rom s) :=
  if_neg (Nat.not_lt.2 h)

/-- Settles O53, by the port's three cases. -/
theorem loadAnswers : Obligations.LoadAnswers := fun s =>
  ⟨rfl, fun _ h => load_tooLarge s h, fun _ h => congrArg Prod.fst (load_fits s h)⟩

/-! ## A load after a load (R144) -/

/-- A load takes only the host's fields from the state before it, and those a load keeps. -/
theorem loaded_loaded (a b : List Byte) (s : State) : loaded b (loaded a s) = loaded b s := rfl

/-- Settles O56: both ROMs fit, and the second load forgets the first. -/
theorem loadsAreIdempotent : Obligations.LoadsAreIdempotent := by
  intro a b s ha hb
  rw [load_fits s ha, load_fits _ hb, load_fits s hb, loaded_loaded]

/-! ## The first cycle after an empty ROM (R149) -/

theorem loaded_live (rom : List Byte) (s : State) : (loaded rom s).Live := ⟨rfl, rfl⟩

theorem loaded_pc (rom : List Byte) (s : State) : (loaded rom s).pc = 0x200 := rfl

/-- With an empty ROM the bytes from 0x200 on are 0, so the first word is (R38). -/
theorem fetchWord_loaded_nil (s : State) : fetchWord (loaded [] s).pc (loaded [] s) = .ok 0 := by
  have hzero (a : Nat) (ha : 80 ≤ a) : (loaded [] s).readByte a = 0 := by
    simp [readByte_loaded, unlistedByte_above _ ha]
  rw [loaded_pc]
  refine (fetchWord_ofNat (loaded [] s) (a := 0x200) (by decide)).trans ?_
  rw [hzero _ (by decide), hzero _ (by decide)]
  rfl

/-- The step after an empty ROM fetches the word 0, which is no instruction's (R69). -/
theorem step_loaded_nil (s : State) :
    step (loaded [] s) = .next (raise (.unknownOpcode 0) 0x200 (timerTick (loaded [] s)).advancePc) :=
  step_of_unknownOpcode (loaded_live [] s) (fetchWord_loaded_nil s) (by decide)

/-- Settles O55: the cycle runs that step, and the next cycle finds the core halted. -/
theorem emptyRomHaltsAtItsFirstWord : Obligations.EmptyRomHaltsAtItsFirstWord := by
  refine fun s => ⟨loaded [] s, raise (.unknownOpcode 0) 0x200 (timerTick (loaded [] s)).advancePc,
    load_fits s (Nat.zero_le _), ?_, rfl, ?_⟩
  · rw [executeCycle_of_step (step_loaded_nil s), stepResult_halted rfl rfl]
  · rw [executeCycle_of_step (step_of_halted (by simp)), stepResult_halted rfl rfl]

end Sys2Proof.Machine
end
